-- ==== Sys2Proof/Word.lean ====
section
/-! DEFINITION. The two word types of the machine (spec 00_scope.md rule R7): the byte (`u8`) and
the 16-bit word (`u16`), which is also an address. -/

namespace Sys2Proof

/-- A byte, the spec's `u8`: the addressable unit and the width of an 8-bit register
(00_scope.md rules R6 and R7). -/
abbrev Byte := BitVec 8

/-- A 16-bit word, the spec's `u16`: a register pair, `SP`, `PC` or an address
(00_scope.md rules R6 and R7). -/
abbrev Word := BitVec 16

end Sys2Proof
end

