-- ==== Sys2Proof/Config.lean ====
section
/-! DEFINITION. The implementation parameters of spec 00_scope.md rule R6 that the model takes as
arguments: `Platform`, `HaltBugPolicy` and `Variant`, as plain data of type `Params` which
`Sys2Proof.Machine.State` carries and no step changes. `IllegalOpcodePolicy` and `StopPolicy` have
one value each in the spec (`fault`, `stuck`), so they are no argument here; `ResetState` is any state
of `Sys2Proof.Machine.Initial`. -/

namespace Sys2Proof

/-- What a cell of the address space is (10_state.md rule R45). -/
inductive CellKind where
  /-- A cell that keeps what is written; the bits set in `ones` are read as 1 (`IF` on the hardware,
  10_state.md rule R44; none on flat RAM). -/
  | ram (ones : Byte)
  /-- A cell that ignores writes, which the devices see (20_memory.md rule R80: they drive the
  cartridge's bank controller). -/
  | rom
  /-- A cell whose reads and writes a device answers: a device register, a switchable bank, a mirror,
  nothing at all. -/
  | device
  deriving DecidableEq, Repr

/-- The cells from `first` to `last`, both included, are of one kind. -/
structure Region where
  first : Nat
  last : Nat
  kind : CellKind
  deriving DecidableEq, Repr

/-- A platform (00_scope.md rule R6, 20_memory.md rule R71): its memory map, in which an address is what
the first region holding it says, and plain RAM outside every region; and what its environment move
(60_exceptions.md rule R403) may do. -/
structure Platform where
  regions : List Region
  /-- The environment move may set bits 4 to 0 of `IF`. -/
  raises : Bool
  /-- The environment move may change the devices' own state. -/
  changes : Bool
  deriving DecidableEq, Repr

/-- Flat RAM, the platform of 20_memory.md rule R81: plain RAM everywhere, and the environment never
moves (60_exceptions.md rule R403). -/
def Platform.flatRAM : Platform where
  regions := []
  raises := false
  changes := false

/-- What the devices of a platform see. -/
inductive DeviceEvent where
  /-- The program reads a cell. -/
  | read (a : Word)
  /-- The program writes a byte to a cell. -/
  | write (a : Word) (v : Byte)
  /-- A device changes by itself, as the environment move lets it (60_exceptions.md rule R403). -/
  | change (kind : Nat)
  deriving DecidableEq, Repr

/-- The byte the devices answer when an address is read, after all that they have seen, newest first.
The device state of 20_memory.md rule R71 is what they have seen, and this is its `read`: the rule
assumes nothing of it, so it is a constant with no body (log entry 15), and what is proved holds for
every device. -/
opaque Config.deviceByte : List DeviceEvent → Word → Byte

/-- The two policies the spec defines for `HALT` executed with `IME = 0` and an enabled request
pending (70_reset_and_hazards.md rule R461). -/
inductive HaltBugPolicy where
  /-- The model stops with the fault `HaltBug`. -/
  | fault
  /-- The hardware's behaviour: no halt, and the next byte is fetched twice. -/
  | emulate
  deriving DecidableEq, Repr

/-- The two variants of the hardware; no rule of the instruction set depends on which it is
(00_scope.md rule R6). -/
inductive Variant where
  | dmg
  | cgb
  deriving DecidableEq, Repr

/-- The parameters of a machine (00_scope.md rule R6). -/
structure Params where
  platform : Platform
  haltBugPolicy : HaltBugPolicy
  variant : Variant
  deriving DecidableEq, Repr

end Sys2Proof
end

