-- ==== Sys2Proof/Machine/Bits.lean ====
section
/-! DEFINITION. The bit-field, sign-extension and byte-order helpers of spec 00_scope.md rules R7 and
R8, used by the decoder and by the machine. -/

namespace Sys2Proof

/-- `hi(w) = w[15:8]` (00_scope.md rule R7). -/
def hiByte (w : Word) : Byte := w.extractLsb' 8 8

/-- `lo(w) = w[7:0]` (00_scope.md rule R7). -/
def loByte (w : Word) : Byte := w.extractLsb' 0 8

/-- `{h, l} = 256*h + l` (00_scope.md rule R7). -/
def wordOf (h l : Byte) : Word := h ++ l

/-- `signed8(b)`: the byte read in two's complement, -128 to 127 (00_scope.md rule R8). -/
def signed8 (b : Byte) : Int := if b.toNat < 128 then b.toNat else (b.toNat : Int) - 256

/-- `sext_16(b)` (00_scope.md rule R8). -/
def sext16 (b : Byte) : Word := b.signExtend 16

/-- `zext_16(b)` (00_scope.md rule R8). -/
def zext16 (b : Byte) : Word := b.setWidth 16

/-- `trunc8(x)`: reduced modulo 256, also for negative `x` (00_scope.md rule R8). -/
def trunc8 (x : Int) : Byte := BitVec.ofInt 8 x

/-- `trunc16(x)`: reduced modulo 65536, also for negative `x` (00_scope.md rule R8). -/
def trunc16 (x : Int) : Word := BitVec.ofInt 16 x

/-- `v[3:0]` as a number. -/
def lowNibble (v : Byte) : Nat := v.toNat % 16

/-- The address `0xFF00 + n` of the high page, which is `{0xFF, n}` (30_encoding.md rule R105). -/
def highPage (n : Byte) : Word := wordOf 0xFF n

end Sys2Proof
end

