-- ==== Sys2Proof/Syntax.lean ====
section
/-! DEFINITION. The instructions of the machine as terms: one constructor of `Instr` for each row of
spec/opcode_table.json, that is for each of the 107 entries of 30_encoding.md rule R119 and each of
the eleven illegal bytes of rule R116. -/

namespace Sys2Proof

/-- The operand class `r8`: one of the seven 8-bit registers (00_scope.md rule R11, 10_state.md
rule R31). `[HL]` is not one of them: it has entries of its own. -/
inductive R8 where
  | b | c | d | e | h | l | a
  deriving DecidableEq, Repr

/-- The operand class `r16`: one of the pairs `BC DE HL` (00_scope.md rule R11). `SP` and `AF` are
not in it: they have entries of their own. -/
inductive R16 where
  | bc | de | hl
  deriving DecidableEq, Repr

/-- The operand class `cc`: a condition on the flags (00_scope.md rule R11, 30_encoding.md
rule R110). -/
inductive Cond where
  | nz | z | nc | c
  deriving DecidableEq, Repr

/-- An instruction. The operand classes `n8`, `n16`, `e8`, `u3` and `vec` (00_scope.md rule R11) are
the bit patterns the instruction holds: `e8` is the offset's byte in two's complement, `vec` is the
restart address's low byte. `At` in a name is the source's square brackets, `High` its
`[$FF00+...]`. -/
inductive Instr where
  -- 8-bit arithmetic and logic (40_alu8.md)
  /-- `ADC A,r8`, entry 1, rule R150. -/
  | adcAR8 (r : R8)
  /-- `ADC A,[HL]`, entry 2, rule R151. -/
  | adcAAtHL
  /-- `ADC A,n8`, entry 3, rule R152. -/
  | adcAN8 (n : Byte)
  /-- `ADD A,r8`, entry 4, rule R153. -/
  | addAR8 (r : R8)
  /-- `ADD A,[HL]`, entry 5, rule R154. -/
  | addAAtHL
  /-- `ADD A,n8`, entry 6, rule R155. -/
  | addAN8 (n : Byte)
  /-- `AND A,r8`, entry 10, rule R156. -/
  | andAR8 (r : R8)
  /-- `AND A,[HL]`, entry 11, rule R157. -/
  | andAAtHL
  /-- `AND A,n8`, entry 12, rule R158. -/
  | andAN8 (n : Byte)
  /-- `CP A,r8`, entry 18, rule R159. -/
  | cpAR8 (r : R8)
  /-- `CP A,[HL]`, entry 19, rule R160. -/
  | cpAAtHL
  /-- `CP A,n8`, entry 20, rule R161. -/
  | cpAN8 (n : Byte)
  /-- `DEC r8`, entry 23, rule R162. -/
  | decR8 (r : R8)
  /-- `DEC [HL]`, entry 24, rule R163. -/
  | decAtHL
  /-- `INC r8`, entry 30, rule R164. -/
  | incR8 (r : R8)
  /-- `INC [HL]`, entry 31, rule R165. -/
  | incAtHL
  /-- `OR A,r8`, entry 62, rule R166. -/
  | orAR8 (r : R8)
  /-- `OR A,[HL]`, entry 63, rule R167. -/
  | orAAtHL
  /-- `OR A,n8`, entry 64, rule R168. -/
  | orAN8 (n : Byte)
  /-- `SBC A,r8`, entry 87, rule R171. -/
  | sbcAR8 (r : R8)
  /-- `SBC A,[HL]`, entry 88, rule R172. -/
  | sbcAAtHL
  /-- `SBC A,n8`, entry 89, rule R173. -/
  | sbcAN8 (n : Byte)
  /-- `SUB A,r8`, entry 100, rule R174. -/
  | subAR8 (r : R8)
  /-- `SUB A,[HL]`, entry 101, rule R175. -/
  | subAAtHL
  /-- `SUB A,n8`, entry 102, rule R176. -/
  | subAN8 (n : Byte)
  /-- `XOR A,r8`, entry 105, rule R177. -/
  | xorAR8 (r : R8)
  /-- `XOR A,[HL]`, entry 106, rule R178. -/
  | xorAAtHL
  /-- `XOR A,n8`, entry 107, rule R179. -/
  | xorAN8 (n : Byte)
  -- 16-bit arithmetic (41_alu16.md)
  /-- `ADD HL,r16`, entry 7, rule R200. -/
  | addHLR16 (p : R16)
  /-- `ADD HL,SP`, entry 8, rule R201. -/
  | addHLSP
  /-- `ADD SP,e8`, entry 9, rule R202. -/
  | addSPE8 (e : Byte)
  /-- `DEC r16`, entry 25, rule R203. -/
  | decR16 (p : R16)
  /-- `DEC SP`, entry 26, rule R204. -/
  | decSP
  /-- `INC r16`, entry 32, rule R205. -/
  | incR16 (p : R16)
  /-- `INC SP`, entry 33, rule R206. -/
  | incSP
  -- Bit test, reset, set, nibble swap (42_bit.md)
  /-- `BIT u3,r8`, entry 13, rule R220. -/
  | bitR8 (u : BitVec 3) (r : R8)
  /-- `BIT u3,[HL]`, entry 14, rule R221. -/
  | bitAtHL (u : BitVec 3)
  /-- `RES u3,r8`, entry 69, rule R222. -/
  | resR8 (u : BitVec 3) (r : R8)
  /-- `RES u3,[HL]`, entry 70, rule R223. -/
  | resAtHL (u : BitVec 3)
  /-- `SET u3,r8`, entry 91, rule R224. -/
  | setR8 (u : BitVec 3) (r : R8)
  /-- `SET u3,[HL]`, entry 92, rule R225. -/
  | setAtHL (u : BitVec 3)
  /-- `SWAP r8`, entry 103, rule R226. -/
  | swapR8 (r : R8)
  /-- `SWAP [HL]`, entry 104, rule R227. -/
  | swapAtHL
  -- Rotates and shifts (43_rotate_shift.md)
  /-- `RL r8`, entry 74, rule R241. -/
  | rlR8 (r : R8)
  /-- `RL [HL]`, entry 75, rule R242. -/
  | rlAtHL
  /-- `RLA`, entry 76, rule R243. -/
  | rla
  /-- `RLC r8`, entry 77, rule R244. -/
  | rlcR8 (r : R8)
  /-- `RLC [HL]`, entry 78, rule R245. -/
  | rlcAtHL
  /-- `RLCA`, entry 79, rule R246. -/
  | rlca
  /-- `RR r8`, entry 80, rule R247. -/
  | rrR8 (r : R8)
  /-- `RR [HL]`, entry 81, rule R248. -/
  | rrAtHL
  /-- `RRA`, entry 82, rule R249. -/
  | rra
  /-- `RRC r8`, entry 83, rule R250. -/
  | rrcR8 (r : R8)
  /-- `RRC [HL]`, entry 84, rule R251. -/
  | rrcAtHL
  /-- `RRCA`, entry 85, rule R252. -/
  | rrca
  /-- `SLA r8`, entry 93, rule R253. -/
  | slaR8 (r : R8)
  /-- `SLA [HL]`, entry 94, rule R254. -/
  | slaAtHL
  /-- `SRA r8`, entry 95, rule R255. -/
  | sraR8 (r : R8)
  /-- `SRA [HL]`, entry 96, rule R256. -/
  | sraAtHL
  /-- `SRL r8`, entry 97, rule R257. -/
  | srlR8 (r : R8)
  /-- `SRL [HL]`, entry 98, rule R258. -/
  | srlAtHL
  -- Loads and stores (44_load.md)
  /-- `LD r8,r8`, entry 39, rule R280: destination, then source. -/
  | ldR8R8 (dst src : R8)
  /-- `LD r8,n8`, entry 40, rule R281. -/
  | ldR8N8 (r : R8) (n : Byte)
  /-- `LD r16,n16`, entry 41, rule R282. -/
  | ldR16N16 (p : R16) (n : Word)
  /-- `LD [HL],r8`, entry 42, rule R283. -/
  | ldAtHLR8 (r : R8)
  /-- `LD [HL],n8`, entry 43, rule R284. -/
  | ldAtHLN8 (n : Byte)
  /-- `LD r8,[HL]`, entry 44, rule R285. -/
  | ldR8AtHL (r : R8)
  /-- `LD [r16],A`, entry 45, rule R286: `BC` or `DE` only (`Instr.WellFormed`). -/
  | ldAtR16A (p : R16)
  /-- `LD [n16],A`, entry 46, rule R287. -/
  | ldAtN16A (n : Word)
  /-- `LD [$FF00+n8],A`, entry 47, rule R288. -/
  | ldHighN8A (n : Byte)
  /-- `LD [$FF00+C],A`, entry 48, rule R289. -/
  | ldHighCA
  /-- `LD A,[r16]`, entry 49, rule R290: `BC` or `DE` only (`Instr.WellFormed`). -/
  | ldAAtR16 (p : R16)
  /-- `LD A,[n16]`, entry 50, rule R291. -/
  | ldAAtN16 (n : Word)
  /-- `LD A,[$FF00+n8]`, entry 51, rule R292. -/
  | ldAHighN8 (n : Byte)
  /-- `LD A,[$FF00+C]`, entry 52, rule R293. -/
  | ldAHighC
  /-- `LD [HL+],A`, entry 53, rule R294. -/
  | ldAtHLIncA
  /-- `LD [HL-],A`, entry 54, rule R295 (heading restored, 90_conflicts.md C3). -/
  | ldAtHLDecA
  /-- `LD A,[HL+]`, entry 55, rule R296. -/
  | ldAAtHLInc
  /-- `LD A,[HL-]`, entry 56, rule R297 (heading restored, 90_conflicts.md C3). -/
  | ldAAtHLDec
  /-- `LD SP,n16`, entry 57, rule R298. -/
  | ldSPN16 (n : Word)
  /-- `LD [n16],SP`, entry 58, rule R299. -/
  | ldAtN16SP (n : Word)
  /-- `LD HL,SP+e8`, entry 59, rule R300. -/
  | ldHLSPE8 (e : Byte)
  /-- `LD SP,HL`, entry 60, rule R301. -/
  | ldSPHL
  -- Jumps, calls, returns, restarts (45_control.md)
  /-- `CALL n16`, entry 15, rule R320. -/
  | callN16 (n : Word)
  /-- `CALL cc,n16`, entry 16, rule R321. -/
  | callCcN16 (cc : Cond) (n : Word)
  /-- `JP n16`, entry 34, rule R322. -/
  | jpN16 (n : Word)
  /-- `JP cc,n16`, entry 35, rule R323. -/
  | jpCcN16 (cc : Cond) (n : Word)
  /-- `JP HL`, entry 36, rule R324. -/
  | jpHL
  /-- `JR e8`, entry 37, rule R325. -/
  | jrE8 (e : Byte)
  /-- `JR cc,e8`, entry 38, rule R326. -/
  | jrCcE8 (cc : Cond) (e : Byte)
  /-- `RET`, entry 71, rule R327. -/
  | ret
  /-- `RET cc`, entry 72, rule R328. -/
  | retCc (cc : Cond)
  /-- `RETI`, entry 73, rule R329. -/
  | reti
  /-- `RST vec`, entry 86, rule R330: the low byte of the restart address. -/
  | rstVec (vec : Byte)
  -- Stack (46_stack.md)
  /-- `POP AF`, entry 65, rule R350. -/
  | popAF
  /-- `POP r16`, entry 66, rule R351. -/
  | popR16 (p : R16)
  /-- `PUSH AF`, entry 67, rule R352. -/
  | pushAF
  /-- `PUSH r16`, entry 68, rule R353. -/
  | pushR16 (p : R16)
  -- Flag, adjust, interrupt-control and power instructions (47_misc.md)
  /-- `CCF`, entry 17, rule R360. -/
  | ccf
  /-- `CPL`, entry 21, rule R362. -/
  | cpl
  /-- `DAA`, entry 22, rule R364. -/
  | daa
  /-- `DI`, entry 27, rule R366. -/
  | di
  /-- `EI`, entry 28, rule R368. -/
  | ei
  /-- `HALT`, entry 29, rule R376. -/
  | halt
  /-- `NOP`, entry 61, rule R380. -/
  | nop
  /-- `SCF`, entry 90, rule R384. -/
  | scf
  /-- `STOP`, entry 99, rule R388, with the pad byte it skips (30_encoding.md rule R117). -/
  | stop (pad : Byte)
  -- The eleven bytes that encode nothing (30_encoding.md rule R116)
  | illegalD3
  | illegalDB
  | illegalDD
  | illegalE3
  | illegalE4
  | illegalEB
  | illegalEC
  | illegalED
  | illegalF4
  | illegalFC
  | illegalFD
  deriving DecidableEq, Repr

end Sys2Proof
end

