-- ==== Sys2Proof/WellFormed.lean ====
section
/-! DEFINITION. Which terms of `Instr` are instructions of the machine: the operand restrictions that
the field types do not already carry. -/

namespace Sys2Proof

/-- The eight restart addresses that `vec` may be (00_scope.md rules R6 and R11, 45_control.md
rule R330). -/
def restartVectors : List Byte := [0x00, 0x08, 0x10, 0x18, 0x20, 0x28, 0x30, 0x38]

/-- A term is well-formed when `RST` names one of the eight restart vectors, and when
`LD [r16],A` and `LD A,[r16]` name `BC` or `DE` (90_conflicts.md C6: with `HL` the text is the entry
`LD [HL],r8` or `LD r8,[HL]`). Every other field of every constructor admits every value. -/
def Instr.WellFormed : Instr → Bool
  | .rstVec vec => restartVectors.contains vec
  | .ldAtR16A p => p != .hl
  | .ldAAtR16 p => p != .hl
  | _ => true

/-- Whether the term is an instruction of the source, not one of the eleven bytes of 30_encoding.md
rule R116 that encode nothing. -/
def Instr.isLegal : Instr → Bool
  | .illegalD3 | .illegalDB | .illegalDD | .illegalE3 | .illegalE4 | .illegalEB | .illegalEC
  | .illegalED | .illegalF4 | .illegalFC | .illegalFD => false
  | _ => true

end Sys2Proof
end

