-- ==== Sys2Proof/Decode.lean ====
section
/-! DEFINITION. The binary level (spec 00_scope.md rule R5): the decoder of 30_encoding.md rules R100
to R118, cut along the fields `x y z p q` of rule R102, and the encoder of the rows of rule R119. -/

namespace Sys2Proof

/-! ### Field codes -/

/-- The `r8` code of 30_encoding.md rule R106; code 6 is no register, it selects the `[HL]` form. -/
def r8OfCode (code : BitVec 3) : Option R8 :=
  match code.toNat with
  | 0 => some .b
  | 1 => some .c
  | 2 => some .d
  | 3 => some .e
  | 4 => some .h
  | 5 => some .l
  | 6 => none
  | _ => some .a

/-- The `cc` code of 30_encoding.md rule R110, from the low two bits of `y`. -/
def condOfCode (code : BitVec 2) : Cond :=
  match code.toNat with
  | 0 => .nz
  | 1 => .z
  | 2 => .nc
  | _ => .c

/-- The register form when the code names a register, else the `[HL]` form (30_encoding.md
rule R106). -/
def r8OrAtHL (code : BitVec 3) (reg : R8 → Instr) (atHL : Instr) : Instr :=
  match r8OfCode code with
  | some r => reg r
  | none => atHL

/-- The form for each `r16` code of 30_encoding.md rule R107 or R108: three pairs, and the separate
entry (`SP` or `AF`) for code 3. -/
def r16OrOther (p : BitVec 2) (pair : R16 → Instr) (other : Instr) : Instr :=
  match p.toNat with
  | 0 => pair .bc
  | 1 => pair .de
  | 2 => pair .hl
  | _ => other

/-! ### The decoder -/

/-- What the first byte of an instruction says of the bytes after it: the formats of 30_encoding.md
rule R101. -/
inductive Format where
  /-- `OP`: one byte, the whole instruction. -/
  | op (i : Instr)
  /-- `OP_N8`, `OP_E8`, `OP_PAD`: one more byte. -/
  | opByte (f : Byte → Instr)
  /-- `OP_N16`: two more bytes, the low one first. -/
  | opWord (f : Word → Instr)
  /-- `CB_OP`: one more byte, the operation byte of rule R113. -/
  | cbOp

/-- Rows `x = 0` of the map of 30_encoding.md rule R114. -/
def formatX0 (y z : BitVec 3) : Format :=
  let p : BitVec 2 := y.extractLsb' 1 2
  let q : Bool := y.getLsbD 0
  match z.toNat with
  | 0 =>
    match y.toNat with
    | 0 => .op .nop
    | 1 => .opWord .ldAtN16SP
    | 2 => .opByte .stop
    | 3 => .opByte .jrE8
    | _ => .opByte (.jrCcE8 (condOfCode (y.extractLsb' 0 2)))
  | 1 =>
    if q then .op (r16OrOther p .addHLR16 .addHLSP)
    else .opWord fun n => r16OrOther p (.ldR16N16 · n) (.ldSPN16 n)
  | 2 =>
    match y.toNat with
    | 0 => .op (.ldAtR16A .bc)
    | 1 => .op (.ldAAtR16 .bc)
    | 2 => .op (.ldAtR16A .de)
    | 3 => .op (.ldAAtR16 .de)
    | 4 => .op .ldAtHLIncA
    | 5 => .op .ldAAtHLInc
    | 6 => .op .ldAtHLDecA
    | _ => .op .ldAAtHLDec
  | 3 =>
    if q then .op (r16OrOther p .decR16 .decSP) else .op (r16OrOther p .incR16 .incSP)
  | 4 => .op (r8OrAtHL y .incR8 .incAtHL)
  | 5 => .op (r8OrAtHL y .decR8 .decAtHL)
  | 6 => .opByte fun n => r8OrAtHL y (.ldR8N8 · n) (.ldAtHLN8 n)
  | _ =>
    match y.toNat with
    | 0 => .op .rlca
    | 1 => .op .rrca
    | 2 => .op .rla
    | 3 => .op .rra
    | 4 => .op .daa
    | 5 => .op .cpl
    | 6 => .op .scf
    | _ => .op .ccf

/-- Row `x = 1` of 30_encoding.md rule R114: `LD r8,r8`, its `[HL]` forms, and `HALT` in the slot
where both codes are 6 (rule R118). -/
def instrX1 (y z : BitVec 3) : Instr :=
  match r8OfCode y, r8OfCode z with
  | some dst, some src => .ldR8R8 dst src
  | some dst, none => .ldR8AtHL dst
  | none, some src => .ldAtHLR8 src
  | none, none => .halt

/-- Row `x = 2` of 30_encoding.md rule R114, with the operation codes of rule R111. -/
def instrX2 (y z : BitVec 3) : Instr :=
  match y.toNat with
  | 0 => r8OrAtHL z .addAR8 .addAAtHL
  | 1 => r8OrAtHL z .adcAR8 .adcAAtHL
  | 2 => r8OrAtHL z .subAR8 .subAAtHL
  | 3 => r8OrAtHL z .sbcAR8 .sbcAAtHL
  | 4 => r8OrAtHL z .andAR8 .andAAtHL
  | 5 => r8OrAtHL z .xorAR8 .xorAAtHL
  | 6 => r8OrAtHL z .orAR8 .orAAtHL
  | _ => r8OrAtHL z .cpAR8 .cpAAtHL

/-- Rows `x = 3` of 30_encoding.md rule R114, with the eleven illegal bytes of rule R116. -/
def formatX3 (y z : BitVec 3) : Format :=
  let p : BitVec 2 := y.extractLsb' 1 2
  let q : Bool := y.getLsbD 0
  let cc : Cond := condOfCode (y.extractLsb' 0 2)
  match z.toNat with
  | 0 =>
    match y.toNat with
    | 4 => .opByte .ldHighN8A
    | 5 => .opByte .addSPE8
    | 6 => .opByte .ldAHighN8
    | 7 => .opByte .ldHLSPE8
    | _ => .op (.retCc cc)
  | 1 =>
    if q then
      match p.toNat with
      | 0 => .op .ret
      | 1 => .op .reti
      | 2 => .op .jpHL
      | _ => .op .ldSPHL
    else .op (r16OrOther p .popR16 .popAF)
  | 2 =>
    match y.toNat with
    | 4 => .op .ldHighCA
    | 5 => .opWord .ldAtN16A
    | 6 => .op .ldAHighC
    | 7 => .opWord .ldAAtN16
    | _ => .opWord (.jpCcN16 cc)
  | 3 =>
    match y.toNat with
    | 0 => .opWord .jpN16
    | 1 => .cbOp
    | 2 => .op .illegalD3
    | 3 => .op .illegalDB
    | 4 => .op .illegalE3
    | 5 => .op .illegalEB
    | 6 => .op .di
    | _ => .op .ei
  | 4 =>
    match y.toNat with
    | 4 => .op .illegalE4
    | 5 => .op .illegalEC
    | 6 => .op .illegalF4
    | 7 => .op .illegalFC
    | _ => .opWord (.callCcN16 cc)
  | 5 =>
    if q then
      match p.toNat with
      | 0 => .opWord .callN16
      | 1 => .op .illegalDD
      | 2 => .op .illegalED
      | _ => .op .illegalFD
    else .op (r16OrOther p .pushR16 .pushAF)
  | 6 =>
    match y.toNat with
    | 0 => .opByte .addAN8
    | 1 => .opByte .adcAN8
    | 2 => .opByte .subAN8
    | 3 => .opByte .sbcAN8
    | 4 => .opByte .andAN8
    | 5 => .opByte .xorAN8
    | 6 => .opByte .orAN8
    | _ => .opByte .cpAN8
  | _ => .op (.rstVec (BitVec.ofNat 8 (8 * y.toNat)))

/-- The format of the instruction that begins with the byte `byte0`, by the fields of
30_encoding.md rule R102 and the map of rule R114. -/
def formatOf (byte0 : Byte) : Format :=
  let x : BitVec 2 := byte0.extractLsb' 6 2
  let y : BitVec 3 := byte0.extractLsb' 3 3
  let z : BitVec 3 := byte0.extractLsb' 0 3
  match x.toNat with
  | 0 => formatX0 y z
  | 1 => .op (instrX1 y z)
  | 2 => .op (instrX2 y z)
  | _ => formatX3 y z

/-- The `CB_OP` instruction with the operation byte `byte1` (30_encoding.md rules R112 and R115):
every one of the 256 values is an instruction. -/
def decodeCb (byte1 : Byte) : Instr :=
  let x : BitVec 2 := byte1.extractLsb' 6 2
  let y : BitVec 3 := byte1.extractLsb' 3 3
  let z : BitVec 3 := byte1.extractLsb' 0 3
  match x.toNat with
  | 0 =>
    match y.toNat with
    | 0 => r8OrAtHL z .rlcR8 .rlcAtHL
    | 1 => r8OrAtHL z .rrcR8 .rrcAtHL
    | 2 => r8OrAtHL z .rlR8 .rlAtHL
    | 3 => r8OrAtHL z .rrR8 .rrAtHL
    | 4 => r8OrAtHL z .slaR8 .slaAtHL
    | 5 => r8OrAtHL z .sraR8 .sraAtHL
    | 6 => r8OrAtHL z .swapR8 .swapAtHL
    | _ => r8OrAtHL z .srlR8 .srlAtHL
  | 1 => r8OrAtHL z (.bitR8 y) (.bitAtHL y)
  | 2 => r8OrAtHL z (.resR8 y) (.resAtHL y)
  | _ => r8OrAtHL z (.setR8 y) (.setAtHL y)

/-- Why a list of bytes is no instruction: it ends before the instruction it begins does. (The
eleven illegal bytes do decode, each to the term that names it; executing that term faults.) -/
inductive DecodeError where
  | truncated
  deriving DecidableEq, Repr

/-- The instruction at the head of a list of bytes in memory order, and the bytes after it
(30_encoding.md rule R103; `n16` has its low byte first, rule R105). -/
def decode : List Byte → Except DecodeError (Instr × List Byte)
  | [] => .error .truncated
  | byte0 :: rest =>
    match formatOf byte0, rest with
    | .op i, _ => .ok (i, rest)
    | .opByte f, n :: rest' => .ok (f n, rest')
    | .opWord f, l :: h :: rest' => .ok (f (wordOf h l), rest')
    | .cbOp, byte1 :: rest' => .ok (decodeCb byte1, rest')
    | _, _ => .error .truncated

/-! ### The encoder -/

/-- The code of a register (30_encoding.md rule R106). -/
def R8.code : R8 → Byte
  | .b => 0
  | .c => 1
  | .d => 2
  | .e => 3
  | .h => 4
  | .l => 5
  | .a => 7

/-- The code of a pair (30_encoding.md rules R107 and R108). -/
def R16.code : R16 → Byte
  | .bc => 0
  | .de => 1
  | .hl => 2

/-- The code of a condition (30_encoding.md rule R110). -/
def Cond.code : Cond → Byte
  | .nz => 0
  | .z => 1
  | .nc => 2
  | .c => 3

/-- A bit number as the byte it is added into (30_encoding.md rule R105). -/
def bitCode (u : BitVec 3) : Byte := u.setWidth 8

/-- `OP_N16`: the opcode, then the low and the high byte of the operand (30_encoding.md
rule R101). -/
def encodeWord (op : Byte) (n : Word) : List Byte := [op, loByte n, hiByte n]

/-- The bytes of a well-formed instruction in memory order, row by row from 30_encoding.md
rule R119 and the `Encoding:` line of the instruction's own rule. -/
def encode : Instr → List Byte
  | .adcAR8 r => [0x88 + r.code]
  | .adcAAtHL => [0x8E]
  | .adcAN8 n => [0xCE, n]
  | .addAR8 r => [0x80 + r.code]
  | .addAAtHL => [0x86]
  | .addAN8 n => [0xC6, n]
  | .andAR8 r => [0xA0 + r.code]
  | .andAAtHL => [0xA6]
  | .andAN8 n => [0xE6, n]
  | .cpAR8 r => [0xB8 + r.code]
  | .cpAAtHL => [0xBE]
  | .cpAN8 n => [0xFE, n]
  | .decR8 r => [0x05 + 8 * r.code]
  | .decAtHL => [0x35]
  | .incR8 r => [0x04 + 8 * r.code]
  | .incAtHL => [0x34]
  | .orAR8 r => [0xB0 + r.code]
  | .orAAtHL => [0xB6]
  | .orAN8 n => [0xF6, n]
  | .sbcAR8 r => [0x98 + r.code]
  | .sbcAAtHL => [0x9E]
  | .sbcAN8 n => [0xDE, n]
  | .subAR8 r => [0x90 + r.code]
  | .subAAtHL => [0x96]
  | .subAN8 n => [0xD6, n]
  | .xorAR8 r => [0xA8 + r.code]
  | .xorAAtHL => [0xAE]
  | .xorAN8 n => [0xEE, n]
  | .addHLR16 p => [0x09 + 16 * p.code]
  | .addHLSP => [0x39]
  | .addSPE8 e => [0xE8, e]
  | .decR16 p => [0x0B + 16 * p.code]
  | .decSP => [0x3B]
  | .incR16 p => [0x03 + 16 * p.code]
  | .incSP => [0x33]
  | .bitR8 u r => [0xCB, 0x40 + 8 * bitCode u + r.code]
  | .bitAtHL u => [0xCB, 0x46 + 8 * bitCode u]
  | .resR8 u r => [0xCB, 0x80 + 8 * bitCode u + r.code]
  | .resAtHL u => [0xCB, 0x86 + 8 * bitCode u]
  | .setR8 u r => [0xCB, 0xC0 + 8 * bitCode u + r.code]
  | .setAtHL u => [0xCB, 0xC6 + 8 * bitCode u]
  | .swapR8 r => [0xCB, 0x30 + r.code]
  | .swapAtHL => [0xCB, 0x36]
  | .rlR8 r => [0xCB, 0x10 + r.code]
  | .rlAtHL => [0xCB, 0x16]
  | .rla => [0x17]
  | .rlcR8 r => [0xCB, 0x00 + r.code]
  | .rlcAtHL => [0xCB, 0x06]
  | .rlca => [0x07]
  | .rrR8 r => [0xCB, 0x18 + r.code]
  | .rrAtHL => [0xCB, 0x1E]
  | .rra => [0x1F]
  | .rrcR8 r => [0xCB, 0x08 + r.code]
  | .rrcAtHL => [0xCB, 0x0E]
  | .rrca => [0x0F]
  | .slaR8 r => [0xCB, 0x20 + r.code]
  | .slaAtHL => [0xCB, 0x26]
  | .sraR8 r => [0xCB, 0x28 + r.code]
  | .sraAtHL => [0xCB, 0x2E]
  | .srlR8 r => [0xCB, 0x38 + r.code]
  | .srlAtHL => [0xCB, 0x3E]
  | .ldR8R8 dst src => [0x40 + 8 * dst.code + src.code]
  | .ldR8N8 r n => [0x06 + 8 * r.code, n]
  | .ldR16N16 p n => encodeWord (0x01 + 16 * p.code) n
  | .ldAtHLR8 r => [0x70 + r.code]
  | .ldAtHLN8 n => [0x36, n]
  | .ldR8AtHL r => [0x46 + 8 * r.code]
  | .ldAtR16A p => [0x02 + 16 * p.code]
  | .ldAtN16A n => encodeWord 0xEA n
  | .ldHighN8A n => [0xE0, n]
  | .ldHighCA => [0xE2]
  | .ldAAtR16 p => [0x0A + 16 * p.code]
  | .ldAAtN16 n => encodeWord 0xFA n
  | .ldAHighN8 n => [0xF0, n]
  | .ldAHighC => [0xF2]
  | .ldAtHLIncA => [0x22]
  | .ldAtHLDecA => [0x32]
  | .ldAAtHLInc => [0x2A]
  | .ldAAtHLDec => [0x3A]
  | .ldSPN16 n => encodeWord 0x31 n
  | .ldAtN16SP n => encodeWord 0x08 n
  | .ldHLSPE8 e => [0xF8, e]
  | .ldSPHL => [0xF9]
  | .callN16 n => encodeWord 0xCD n
  | .callCcN16 cc n => encodeWord (0xC4 + 8 * cc.code) n
  | .jpN16 n => encodeWord 0xC3 n
  | .jpCcN16 cc n => encodeWord (0xC2 + 8 * cc.code) n
  | .jpHL => [0xE9]
  | .jrE8 e => [0x18, e]
  | .jrCcE8 cc e => [0x20 + 8 * cc.code, e]
  | .ret => [0xC9]
  | .retCc cc => [0xC0 + 8 * cc.code]
  | .reti => [0xD9]
  | .rstVec vec => [0xC7 + vec]
  | .popAF => [0xF1]
  | .popR16 p => [0xC1 + 16 * p.code]
  | .pushAF => [0xF5]
  | .pushR16 p => [0xC5 + 16 * p.code]
  | .ccf => [0x3F]
  | .cpl => [0x2F]
  | .daa => [0x27]
  | .di => [0xF3]
  | .ei => [0xFB]
  | .halt => [0x76]
  | .nop => [0x00]
  | .scf => [0x37]
  | .stop pad => [0x10, pad]
  | .illegalD3 => [0xD3]
  | .illegalDB => [0xDB]
  | .illegalDD => [0xDD]
  | .illegalE3 => [0xE3]
  | .illegalE4 => [0xE4]
  | .illegalEB => [0xEB]
  | .illegalEC => [0xEC]
  | .illegalED => [0xED]
  | .illegalF4 => [0xF4]
  | .illegalFC => [0xFC]
  | .illegalFD => [0xFD]

/-! ### Words numbered as the opcode table numbers them -/

/-- The first `nbits` bits of `w`. -/
def tableValue (nbits w : Nat) : Nat := w % 2 ^ nbits

/-- The three bytes, in memory order, of the instruction whose bits are `w`, every bit above `nbits`
zero. The table numbers a `CB_OP` row as `(byte0 << 8) | byte1` (30_encoding.md rule R120), so a
16-bit value whose high byte is the prefix has the prefix first; every other value has its first byte
in bits 7 to 0, its second in bits 15 to 8 and its third in bits 23 to 16 (log entry 8). -/
def tableBytes (nbits w : Nat) : List Byte :=
  let v := tableValue nbits w
  if nbits = 16 ∧ v / 256 = 0xCB then [0xCB, BitVec.ofNat 8 v, 0x00]
  else [BitVec.ofNat 8 v, BitVec.ofNat 8 (v / 256), BitVec.ofNat 8 (v / 65536)]

/-- The instruction the decoder reads from the bits `w` of an opcode-table row. -/
def decodeTableWord (nbits w : Nat) : Option Instr :=
  match decode (tableBytes nbits w) with
  | .ok (i, _) => some i
  | .error _ => none

end Sys2Proof
end

