-- ==== Sys2Proof/Machine/Params.lean ====
section
/-! DEFINITION. The parameters `Sys2Proof.Machine.State.reset` has. A run may begin with any others
(`Sys2Proof.Machine.Initial`). -/

namespace Sys2Proof.Machine

/-- Flat RAM, the spec's default (20_memory.md rule R81, log entry 1); the policy `emulate`, under
which `HALT` completes on every state, where the spec's default is `fault` (DESIGN CHOICE, unsafe, log
entry 5); the variant `DMG`, which nothing reads (DESIGN CHOICE, safe, log entry 16). -/
def resetParams : Params where
  platform := Platform.flatRAM
  haltBugPolicy := .emulate
  variant := .dmg

end Sys2Proof.Machine
end

