-- ==== Sys2Proof/Machine/State.lean ====
section
/-! DEFINITION. The state of the machine (spec 10_state.md rules R30 to R48), its faults and
refusals, and the state after reset (rule R47, 70_reset_and_hazards.md rule R450). -/

namespace Sys2Proof.Machine

/-- The four flags of `F` (10_state.md rule R33). Bits 3 to 0 of `F` do not exist, so they are not
here; `flagsByte` and `flagsOfByte` are the view of `F` as a byte. -/
structure Flags where
  /-- `F.Z`, bit 7. -/
  z : Bool
  /-- `F.N`, bit 6. -/
  n : Bool
  /-- `F.H`, bit 5. -/
  h : Bool
  /-- `F.C`, bit 4. -/
  c : Bool
  deriving DecidableEq, Repr

/-- The power state of the core (10_state.md rule R42). -/
inductive Mode where
  | running
  | halted
  | stopped
  deriving DecidableEq, Repr

/-- The stored bytes of the 65536 cells of memory (10_state.md rule R45), as the list of the cells
that do not hold what an unlisted cell holds. What an access of a cell does with its stored byte is
the platform's (`Machine/Memory.lean`). -/
abbrev Memory := List Host.Cell

/-- The whole state of the machine (10_state.md rule R30; `haltBug` is the hidden bit of
70_reset_and_hazards.md rule R461), with the platform's state and the parameters of the machine. The
pairs `AF BC DE HL` are views, `IE` and `IF` are bytes of memory. -/
structure State where
  a : Byte
  b : Byte
  c : Byte
  d : Byte
  e : Byte
  h : Byte
  l : Byte
  f : Flags
  sp : Word
  pc : Word
  /-- `IME`, the interrupt master enable (rule R40). -/
  ime : Bool
  /-- `ei_pending`: an `EI` has executed and its effect is not applied yet (rule R41). -/
  eiPending : Bool
  mode : Mode
  /-- `halt_bug`: the next `Fetch8` does not advance `PC` (70_reset_and_hazards.md rule R461). -/
  haltBug : Bool
  mem : Memory
  /-- The state of the devices: what they have seen, newest first (20_memory.md rule R71). -/
  devices : List DeviceEvent
  /-- The parameters the machine runs with (00_scope.md rule R6). No step changes them. -/
  params : Params
  deriving DecidableEq, Repr

/-- The model-level faults (00_scope.md rule R12, 60_exceptions.md rule R401). A fault is no
exception of the machine: no handler runs and no step follows. Each holds the state when it was
raised (log entry 10). -/
inductive Fault where
  /-- Raised by the eleven bytes that encode nothing (30_encoding.md rule R116). Safe: the hardware
  locks up until it is reset. -/
  | illegalOpcode (op : Byte) (s : State)
  /-- Raised by `HALT` with `IME = 0` and an enabled request pending, when the policy is `fault`
  (47_misc.md rule R376). Safe. Under the policy `emulate` no step raises it. -/
  | haltBug (s : State)
  deriving DecidableEq, Repr

/-- The refusals: no meaning for an instruction. Safe. Every instruction has one here, so no step
of this model refuses. -/
inductive Refusal where
  /-- An instruction of the opcode table that has no meaning yet. -/
  | notModelled (mnemonic : String)
  deriving DecidableEq, Repr

/-- What the core's reset leaves unspecified (10_state.md rule R47, column "core reset"). -/
structure Unspecified where
  a : Byte
  b : Byte
  c : Byte
  d : Byte
  e : Byte
  h : Byte
  l : Byte
  f : Flags
  sp : Word
  deriving DecidableEq, Repr

/-- The core-reset instance of `ResetState` (10_state.md rule R47): `PC = 0x0000`, `IME = 0`,
`ei_pending = 0`, `mode = Running`, for any parameters and unspecified registers, and any memory and
device state the platform gives (a platform of rule R47 gives `IE = 0x00`). -/
def State.coreReset (params : Params) (u : Unspecified) (mem : Memory)
    (devices : List DeviceEvent) : State where
  a := u.a
  b := u.b
  c := u.c
  d := u.d
  e := u.e
  h := u.h
  l := u.l
  f := u.f
  sp := u.sp
  pc := 0x0000
  ime := false
  eiPending := false
  mode := .running
  haltBug := false
  mem := mem
  devices := devices
  params := params

/-- The values this model names for what the spec leaves unspecified. DESIGN CHOICE, unsafe
(log entry 4): every one zero. -/
def Unspecified.zero : Unspecified where
  a := 0x00
  b := 0x00
  c := 0x00
  d := 0x00
  e := 0x00
  h := 0x00
  l := 0x00
  f := { z := false, n := false, h := false, c := false }
  sp := 0x0000

/-- The machine right after reset: the core-reset instance (log entry 3), the unspecified registers
at the values of log entry 4, memory with nothing listed (log entry 2), devices that have seen nothing
(log entry 15), the parameters of log entries 1, 5 and 16. -/
def State.reset : State := State.coreReset resetParams Unspecified.zero [] []

/-- The DMG-entry instance of `ResetState` (10_state.md rule R47): what the Game Boy's boot program
leaves when it hands over at `0x0100`, for any parameters, and the memory and the device state that
the platform gives then (20_memory.md rule R71, log entry 15). -/
def State.dmgEntry (params : Params) (mem : Memory) (devices : List DeviceEvent) : State where
  a := 0x01
  b := 0x00
  c := 0x13
  d := 0x00
  e := 0xD8
  h := 0x01
  l := 0x4D
  f := { z := true, n := false, h := true, c := true }
  sp := 0xFFFE
  pc := 0x0100
  ime := false
  eiPending := false
  mode := .running
  haltBug := false
  mem := mem
  devices := devices
  params := params

end Sys2Proof.Machine
end

