-- ==== Sys2Proof/Machine/Flags.lean ====
section
/-! DEFINITION. The flag computations of the spec, each with the result it belongs to: 40_alu8.md
rules R169 and R170, 41_alu16.md rules R200 and R207, 42_bit.md, 43_rotate_shift.md rule R240,
47_misc.md, and `F` as a byte (10_state.md rule R33). Arithmetic is on integers and narrowed at the
end (00_scope.md rule R8). -/

namespace Sys2Proof.Machine

/-! ### `F` as a byte -/

/-- `{Z, N, H, C, 0, 0, 0, 0}` (10_state.md rule R33). -/
def flagsByte (f : Flags) : Byte :=
  BitVec.ofBool f.z ++ BitVec.ofBool f.n ++ BitVec.ofBool f.h ++ BitVec.ofBool f.c ++ 0#4

/-- The flags from bits 7 to 4 of a byte; bits 3 to 0 are dropped (10_state.md rule R33). -/
def flagsOfByte (v : Byte) : Flags where
  z := v.getLsbD 7
  n := v.getLsbD 6
  h := v.getLsbD 5
  c := v.getLsbD 4

/-! ### 8-bit arithmetic and logic -/

/-- `Add8(a, x, c)` (40_alu8.md rule R169). -/
def add8 (a x : Byte) (cin : Bool) : Byte × Flags :=
  let s := a.toNat + x.toNat + cin.toNat
  let r := trunc8 s
  (r, { z := r == 0, n := false, h := 15 < lowNibble a + lowNibble x + cin.toNat, c := 255 < s })

/-- `Sub8(a, x, c)`: `H` and `C` are set on a borrow (40_alu8.md rule R170, 90_conflicts.md C1 and
C2). -/
def sub8 (a x : Byte) (cin : Bool) : Byte × Flags :=
  let r := trunc8 ((a.toNat : Int) - x.toNat - cin.toNat)
  (r, { z := r == 0, n := true, h := lowNibble a < lowNibble x + cin.toNat,
        c := a.toNat < x.toNat + cin.toNat })

/-- `AND`: `Z` from the result, `H = 1`, `N = C = 0` (40_alu8.md rule R156). -/
def and8 (a x : Byte) : Byte × Flags :=
  let r := a &&& x
  (r, { z := r == 0, n := false, h := true, c := false })

/-- `OR`: `Z` from the result, `N = H = C = 0` (40_alu8.md rule R166). -/
def or8 (a x : Byte) : Byte × Flags :=
  let r := a ||| x
  (r, { z := r == 0, n := false, h := false, c := false })

/-- `XOR`: `Z` from the result, `N = H = C = 0` (40_alu8.md rule R177). -/
def xor8 (a x : Byte) : Byte × Flags :=
  let r := a ^^^ x
  (r, { z := r == 0, n := false, h := false, c := false })

/-- `INC` of a byte: `C` is unchanged (40_alu8.md rule R164). -/
def inc8 (v : Byte) (f : Flags) : Byte × Flags :=
  let r := trunc8 (v.toNat + 1)
  (r, { z := r == 0, n := false, h := lowNibble v == 15, c := f.c })

/-- `DEC` of a byte: `C` is unchanged (40_alu8.md rule R162). -/
def dec8 (v : Byte) (f : Flags) : Byte × Flags :=
  let r := trunc8 ((v.toNat : Int) - 1)
  (r, { z := r == 0, n := true, h := lowNibble v == 0, c := f.c })

/-! ### 16-bit arithmetic -/

/-- The sum of `ADD HL,r16`: `Z` is unchanged, `H` is the carry out of bit 11, `C` out of bit 15
(41_alu16.md rule R200). -/
def add16 (x v : Word) (f : Flags) : Word × Flags :=
  let s := x.toNat + v.toNat
  (trunc16 s,
    { z := f.z, n := false, h := 4095 < x.toNat % 4096 + v.toNat % 4096, c := 65535 < s })

/-- `AddSP(e)`: the offset is signed in the sum and unsigned in the flags (41_alu16.md
rule R207). -/
def addSP (sp : Word) (e : Byte) : Word × Flags :=
  (trunc16 (sp.toNat + signed8 e),
    { z := false, n := false, h := 15 < sp.toNat % 16 + lowNibble e,
      c := 255 < sp.toNat % 256 + e.toNat })

/-! ### Rotates and shifts (43_rotate_shift.md rule R240): the result and the bit that falls out -/

/-- `RL`: `C < [7 < 0] < C`. -/
def rotRL (v : Byte) (cin : Bool) : Byte × Bool :=
  (v.extractLsb' 0 7 ++ BitVec.ofBool cin, v.getLsbD 7)

/-- `RLC`: `C < [7 < 0] < [7]`. -/
def rotRLC (v : Byte) : Byte × Bool :=
  (v.extractLsb' 0 7 ++ v.extractLsb' 7 1, v.getLsbD 7)

/-- `RR`: `C > [7 > 0] > C`. -/
def rotRR (v : Byte) (cin : Bool) : Byte × Bool :=
  (BitVec.ofBool cin ++ v.extractLsb' 1 7, v.getLsbD 0)

/-- `RRC`: `[0] > [7 > 0] > C`. -/
def rotRRC (v : Byte) : Byte × Bool :=
  (v.extractLsb' 0 1 ++ v.extractLsb' 1 7, v.getLsbD 0)

/-- `SLA`: `C < [7 < 0] < 0`. -/
def shiftSLA (v : Byte) : Byte × Bool :=
  (v.extractLsb' 0 7 ++ 0#1, v.getLsbD 7)

/-- `SRA`: `[7] > [7 > 0] > C`. -/
def shiftSRA (v : Byte) : Byte × Bool :=
  (v.extractLsb' 7 1 ++ v.extractLsb' 1 7, v.getLsbD 0)

/-- `SRL`: `0 > [7 > 0] > C`. -/
def shiftSRL (v : Byte) : Byte × Bool :=
  (0#1 ++ v.extractLsb' 1 7, v.getLsbD 0)

/-- The flags of the fourteen `CB_OP` rotates and shifts: `Z` from the result, `C` the bit that fell
out. -/
def rotFlags (p : Byte × Bool) : Byte × Flags :=
  (p.1, { z := p.1 == 0, n := false, h := false, c := p.2 })

/-- The flags of `RLA RLCA RRA RRCA`: `Z` is written 0. -/
def rotFlagsA (p : Byte × Bool) : Byte × Flags :=
  (p.1, { z := false, n := false, h := false, c := p.2 })

/-! ### Bits and nibbles -/

/-- `SWAP`: the nibbles exchanged, `Z` from the result, `N = H = C = 0` (42_bit.md rule R226). -/
def swap8 (v : Byte) : Byte × Flags :=
  let r : Byte := v.extractLsb' 0 4 ++ v.extractLsb' 4 4
  (r, { z := r == 0, n := false, h := false, c := false })

/-- `1 << u`, within a byte. -/
def bitMask (u : BitVec 3) : Byte := 1#8 <<< u.toNat

/-- The flags of `BIT`: `Z` is the complement of the bit, `C` is unchanged (42_bit.md
rule R220). -/
def bitFlags (u : BitVec 3) (v : Byte) (f : Flags) : Flags :=
  { z := !v.getLsbD u.toNat, n := false, h := true, c := f.c }

/-- `RES`: the byte with bit `u` cleared (42_bit.md rule R222). -/
def res8 (u : BitVec 3) (v : Byte) : Byte := v &&& ~~~bitMask u

/-- `SET`: the byte with bit `u` set (42_bit.md rule R224). -/
def set8 (u : BitVec 3) (v : Byte) : Byte := v ||| bitMask u

/-! ### Decimal adjust and the carry instructions -/

/-- `DAA` (47_misc.md rule R364): every test uses the values before the instruction, and `N` is
unchanged. -/
def daa8 (a : Byte) (f : Flags) : Byte × Flags :=
  let low := f.h || (!f.n && decide (9 < lowNibble a))
  let high := f.c || (!f.n && decide (0x99 < a.toNat))
  let adj := (if low then 0x06 else 0x00) + (if high then 0x60 else 0x00)
  let r := if f.n then trunc8 ((a.toNat : Int) - adj) else trunc8 (a.toNat + adj)
  (r, { z := r == 0, n := f.n, h := false, c := high })

/-- `CCF`: `C` complemented, `N = H = 0`, `Z` unchanged (47_misc.md rule R360). -/
def ccfFlags (f : Flags) : Flags := { z := f.z, n := false, h := false, c := !f.c }

/-- `SCF`: `C = 1`, `N = H = 0`, `Z` unchanged (47_misc.md rule R384). -/
def scfFlags (f : Flags) : Flags := { z := f.z, n := false, h := false, c := true }

/-- `CPL`: `N = H = 1`, `Z` and `C` unchanged (47_misc.md rule R362). -/
def cplFlags (f : Flags) : Flags := { z := f.z, n := true, h := true, c := f.c }

end Sys2Proof.Machine
end

