-- ==== Sys2Proof/Machine/Memory.lean ====
section
/-! DEFINITION. Memory (spec 20_memory.md rules R70, R71, R81): the stored bytes as the list of the
cells that differ from what an unlisted cell holds, in one canonical form; and what the platform makes
of an access: which cells are RAM, ROM or a device's, and what a read and a write of each does. -/

namespace Sys2Proof.Machine

/-- What a cell that is not listed holds. DESIGN CHOICE, unsafe (log entry 2): `0x00`, the
convention of 95_test_vectors.md; the spec leaves the contents at the start to the platform. -/
def unlistedByte : Byte := 0x00

/-! ### The stored bytes -/

/-- The byte stored at an address. -/
def memGet : Memory → Nat → Byte
  | [], _ => unlistedByte
  | cell :: rest, a => if cell.1 = a then cell.2 else memGet rest a

/-- The memory with the cell at an address no longer listed. -/
def memErase : Memory → Nat → Memory
  | [], _ => []
  | cell :: rest, a => if cell.1 = a then memErase rest a else cell :: memErase rest a

/-- The memory with one more cell listed, before the first cell of a higher address. -/
def memInsert : Memory → Nat → Byte → Memory
  | [], a, v => [(a, v)]
  | cell :: rest, a, v =>
    if a < cell.1 then (a, v) :: cell :: rest else cell :: memInsert rest a v

/-- The memory after the byte `v` is stored at an address: a later look there gives it
(20_memory.md rule R81), and the canonical form is kept. -/
def memSet (m : Memory) (a : Nat) (v : Byte) : Memory :=
  if v = unlistedByte then memErase m a else memInsert (memErase m a) a v

/-- The canonical form: addresses strictly rising and inside the address space, and no cell listed
that holds what an unlisted cell holds. -/
abbrev Memory.wf (m : Memory) : Prop :=
  m.Pairwise (fun x y => x.1 < y.1) ∧ ∀ cell ∈ m, cell.1 < 65536 ∧ cell.2 ≠ unlistedByte

/-! ### The memory map -/

/-- The address of `IF` (10_state.md rule R44). -/
def ifAddr : Word := 0xFF0F

/-- The address of `IE` (10_state.md rule R43). -/
def ieAddr : Word := 0xFFFF

end Sys2Proof.Machine

namespace Sys2Proof

/-- The bits of a cell that read as 1 whatever is stored. -/
def CellKind.ones : CellKind → Byte
  | .ram ones => ones
  | .rom | .device => 0x00

/-- A write of the cell stores the byte. -/
def CellKind.isRam : CellKind → Bool
  | .ram _ => true
  | .rom | .device => false

/-- A read of the cell is a device's to answer. -/
def CellKind.isDevice : CellKind → Bool
  | .device => true
  | .ram _ | .rom => false

/-- What the first region that holds an address says. -/
def regionKind : List Region → Nat → CellKind
  | [], _ => .ram 0x00
  | r :: rest, a => if r.first ≤ a ∧ a ≤ r.last then r.kind else regionKind rest a

/-- What the cell at an address is (10_state.md rule R45). `IE` and `IF` are bytes that loads and
stores reach on every platform (rules R43 and R44, 20_memory.md rule R79); the platform's part in them
is whether their bits 7 to 5, which take no part in interrupts, read as 1 (DEDUCED, log entry 12). -/
def Platform.kindAt (p : Platform) (a : Word) : CellKind :=
  let kind := regionKind p.regions a.toNat
  if a = Machine.ieAddr ∨ a = Machine.ifAddr then .ram (kind.ones &&& 0xE0) else kind

/-- The devices see their own changes, where the platform has any, the reads of their cells, and the writes of every cell
that is not RAM. -/
def Platform.sees (p : Platform) : DeviceEvent → Bool
  | .read a => (p.kindAt a).isDevice
  | .write a _ => !(p.kindAt a).isRam
  | .change _ => p.changes

/-- What the devices have seen after one more access or change. -/
def Platform.note (p : Platform) (seen : List DeviceEvent) (event : DeviceEvent) :
    List DeviceEvent :=
  if p.sees event then event :: seen else seen

end Sys2Proof

namespace Sys2Proof.Machine

/-! ### Accesses -/

/-- What the cell at an address is, on the platform of the machine. -/
def kindAt (s : State) (a : Word) : CellKind := s.params.platform.kindAt a

/-- The byte stored at an address, which is no access (60_exceptions.md rule R404). -/
def storedByte (s : State) (a : Word) : Byte := memGet s.mem a.toNat

/-- The state with a byte stored at an address, which is no access (60_exceptions.md rule R410). -/
def storeByte (s : State) (a : Word) (v : Byte) : State :=
  { s with mem := memSet s.mem a.toNat v }

/-- The byte a read of an address answers in a state: a device's own, or the stored byte with the
bits that read as 1. -/
def peek (s : State) (a : Word) : Byte :=
  if (kindAt s a).isDevice then Config.deviceByte s.devices a
  else storedByte s a ||| (kindAt s a).ones

/-- `MemRead(a, 1)` (00_scope.md rule R10): the byte, and the state after the read, which a device has
seen (20_memory.md rule R71: a read may have an effect). -/
def memRead (s : State) (a : Word) : Byte × State :=
  (peek s a, { s with devices := s.params.platform.note s.devices (.read a) })

/-- `MemWrite(a, 1, v)` (00_scope.md rule R10): RAM stores the byte, and the devices see the write of
any other cell (20_memory.md rules R71 and R80). -/
def memWrite (s : State) (a : Word) (v : Byte) : State :=
  { s with
    mem := if (kindAt s a).isRam then memSet s.mem a.toNat v else s.mem
    devices := s.params.platform.note s.devices (.write a v) }

end Sys2Proof.Machine
end

