-- ==== Sys2Proof/Machine/Operands.lean ====
section
/-! DEFINITION. The operand forms: the registers of the class `r8`, the pairs of the class `r16`, and
the conditions `cc` (spec 00_scope.md rules R9 and R11, 10_state.md rules R31 and R35,
30_encoding.md rules R106, R107 and R110). -/

namespace Sys2Proof.Machine

/-- `r8[i]` read (00_scope.md rule R9). -/
def getR8 (s : State) : R8 → Byte
  | .b => s.b
  | .c => s.c
  | .d => s.d
  | .e => s.e
  | .h => s.h
  | .l => s.l
  | .a => s.a

/-- `r8[i] <- v` (00_scope.md rule R9). No register is hardwired (10_state.md rule R31). -/
def setR8 (s : State) (r : R8) (v : Byte) : State :=
  match r with
  | .b => { s with b := v }
  | .c => { s with c := v }
  | .d => { s with d := v }
  | .e => { s with e := v }
  | .h => { s with h := v }
  | .l => { s with l := v }
  | .a => { s with a := v }

/-- The pair a name of `r16` stands for: the first-named register is the high byte (10_state.md
rule R35). -/
def getR16 (s : State) : R16 → Word
  | .bc => wordOf s.b s.c
  | .de => wordOf s.d s.e
  | .hl => wordOf s.h s.l

/-- Writing a pair writes both halves (10_state.md rule R35). -/
def setR16 (s : State) (p : R16) (w : Word) : State :=
  match p with
  | .bc => { s with b := hiByte w, c := loByte w }
  | .de => { s with d := hiByte w, e := loByte w }
  | .hl => { s with h := hiByte w, l := loByte w }

/-- `HL`, the address of every `[HL]` operand (10_state.md rule R35). -/
def getHL (s : State) : Word := getR16 s .hl

/-- `HL <- w`. -/
def setHL (s : State) (w : Word) : State := setR16 s .hl w

/-- `cond(cc)` (30_encoding.md rule R110). -/
def condHolds (s : State) : Cond → Bool
  | .nz => !s.f.z
  | .z => s.f.z
  | .nc => !s.f.c
  | .c => s.f.c

/-- An 8-bit result into `A`, with its flags. -/
def setAFlags (s : State) (p : Byte × Flags) : State := { s with a := p.1, f := p.2 }

/-- A 16-bit result into `HL`, with its flags. -/
def setHLFlags (s : State) (p : Word × Flags) : State := { setHL s p.1 with f := p.2 }

/-- `AF = {A, F}` (10_state.md rule R35). -/
def getAF (s : State) : Word := wordOf s.a (flagsByte s.f)

/-- `AF <- w`: bits 3 to 0 of the low byte are dropped (10_state.md rule R33). -/
def setAF (s : State) (w : Word) : State := { s with a := hiByte w, f := flagsOfByte (loByte w) }

/-- The target of a relative jump: `trunc16(PCnext + signed8(e))` (44_load.md rule R302, 45_control.md
rule R325). -/
def relTarget (s : State) (e : Byte) : Word := trunc16 (s.pc.toNat + signed8 e)

end Sys2Proof.Machine
end

