-- ==== Sys2Proof/Machine/Ops.lean ====
section
/-! DEFINITION. The shared operations of the machine: 16-bit accesses and the stack (spec
20_memory.md), fetching (30_encoding.md rule R104), interrupts with their dispatch and return, and
what a step does around an instruction (60_exceptions.md), `HALT` under its two policies
(47_misc.md rule R376). -/

namespace Sys2Proof.Machine

/-- What a meaning answers. -/
abbrev Answer := Host.Outcome State Fault Refusal

/-! ### Memory accesses -/

/-- What a reading instruction does with the byte at an address: one read, then `use` on the byte and
the state after the read (20_memory.md rule R75). -/
def withRead (s : State) (a : Word) (use : Byte → State → State) : State :=
  use (memRead s a).1 (memRead s a).2

/-- `Read16(a)`: the low byte first; the second address wraps (20_memory.md rule R76). -/
def read16 (s : State) (a : Word) : Word × State :=
  let low := memRead s a
  let high := memRead low.2 (a + 1)
  (wordOf high.1 low.1, high.2)

/-- `Write16(a, w)`: the low byte first; the second address wraps (20_memory.md rule R76). -/
def write16 (s : State) (a : Word) (w : Word) : State :=
  memWrite (memWrite s a (loByte w)) (a + 1) (hiByte w)

/-- One byte of `Push16`: decrement `SP`, then store there. -/
def push8 (s : State) (v : Byte) : State := memWrite { s with sp := s.sp - 1 } (s.sp - 1) v

/-- `Push16(w)`: the high byte first, so that it lies at the higher address (20_memory.md
rule R77). -/
def push16 (s : State) (w : Word) : State := push8 (push8 s (hiByte w)) (loByte w)

/-- One byte of `Pop16`: read at the old `SP`, and increment it. -/
def pop8 (s : State) : Byte × State := memRead { s with sp := s.sp + 1 } s.sp

/-- `Pop16()`: the low byte first; the popped cells are not changed (20_memory.md rule R78). -/
def pop16 (s : State) : Word × State :=
  let low := pop8 s
  let high := pop8 low.2
  (wordOf high.1 low.1, high.2)

/-- A read-modify-write of the byte at `HL`: one read, then one write of the same address, and the
flags (20_memory.md rule R75). -/
def modifyAtHL (s : State) (g : Byte → Byte × Flags) : State :=
  withRead s (getHL s) fun v t => memWrite { t with f := (g v).2 } (getHL s) (g v).1

/-- The same operation on a register. -/
def modifyR8 (s : State) (r : R8) (g : Byte → Byte × Flags) : State :=
  let p := g (getR8 s r)
  setR8 { s with f := p.2 } r p.1

/-! ### Transfers of control -/

/-- `PC <- target` (00_scope.md rule R10). -/
def jumpTo (s : State) (target : Word) : State := { s with pc := target }

/-- Push `PC`, which is the address of the following instruction, and jump (45_control.md
rule R331). -/
def callTo (s : State) (target : Word) : State := jumpTo (push16 s s.pc) target

/-- Pop `PC` (45_control.md rule R331). -/
def returnFrom (s : State) : State := jumpTo (pop16 s).2 (pop16 s).1

/-- A conditional form: when the condition does not hold, the only effect is the advance of `PC`
(45_control.md rule R331). -/
def whenCond (s : State) (cc : Cond) (taken : State → State) : State :=
  if condHolds s cc then taken s else s

/-! ### Fetching -/

/-- `Fetch8()` (30_encoding.md rule R104): read at the old `PC`, and advance it; with the double fetch
of 70_reset_and_hazards.md rule R461: while `halt_bug` is set, `PC` is not advanced and the bit is
cleared. -/
def fetch8 (s : State) : Byte × State :=
  memRead (if s.haltBug then { s with haltBug := false } else { s with pc := s.pc + 1 }) s.pc

/-- `Fetch16()`: the low byte first (30_encoding.md rule R104). -/
def fetch16 (s : State) : Word × State :=
  let low := fetch8 s
  let high := fetch8 low.2
  (wordOf high.1 low.1, high.2)

/-- Fetch the bytes that a format has after byte 0, each once, and the instruction they make
(30_encoding.md rules R101 and R104). -/
def fetchOperands (s : State) : Format → Instr × State
  | .op i => (i, s)
  | .opByte f => (f (fetch8 s).1, (fetch8 s).2)
  | .opWord f => (f (fetch16 s).1, (fetch16 s).2)
  | .cbOp => (decodeCb (fetch8 s).1, (fetch8 s).2)

/-- Fetch one instruction: byte 0, then exactly the bytes its format has (30_encoding.md rules R103
and R104). The state it answers has `PC` at the address of the following instruction. -/
def fetchInstr (s : State) : Instr × State :=
  fetchOperands (fetch8 s).2 (formatOf (fetch8 s).1)

/-- The state with a byte placed where a fetch at an address reads it. A cell that does not read as
the byte stored there becomes plain RAM (log entry 7). -/
def placeByte (s : State) (a : Word) (v : Byte) : State :=
  if (kindAt s a).isDevice || (kindAt s a).ones != 0 then
    { storeByte s a v with
      params.platform.regions := ⟨a.toNat, a.toNat, .ram 0x00⟩ :: s.params.platform.regions }
  else storeByte s a v

/-- A list of bytes placed from an address on. -/
def placeBytes (s : State) (a : Word) : List Byte → State
  | [] => s
  | v :: rest => placeBytes (placeByte s a v) (a + 1) rest

/-! ### Interrupts -/

/-- `pending = IE & IF & 0x1F`, from the stored bytes, which is no access (60_exceptions.md
rule R404). -/
def pending (s : State) : Byte := storedByte s ieAddr &&& storedByte s ifAddr &&& 0x1F

/-- The five interrupt sources (60_exceptions.md rule R403). -/
inductive Source where
  | vblank
  | stat
  | timer
  | serial
  | joypad
  deriving DecidableEq, Repr

/-- `n`, the source's bit in `IE` and in `IF` (60_exceptions.md rule R403). -/
def Source.index : Source → Nat
  | .vblank => 0
  | .stat => 1
  | .timer => 2
  | .serial => 3
  | .joypad => 4

/-- The source's bit mask, `1 << n` (60_exceptions.md rule R403). -/
def Source.mask (src : Source) : Byte := 1#8 <<< src.index

/-- The source's vector, `0x0040 + 8 * n` (60_exceptions.md rule R403). -/
def Source.vector (src : Source) : Word := BitVec.ofNat 16 (0x40 + 8 * src.index)

/-- The source of the least significant 1 bit of the pending set (60_exceptions.md rule R405). -/
def firstSource (p : Byte) : Option Source :=
  if p.getLsbD 0 then some .vblank
  else if p.getLsbD 1 then some .stat
  else if p.getLsbD 2 then some .timer
  else if p.getLsbD 3 then some .serial
  else if p.getLsbD 4 then some .joypad
  else none

/-- Taking an interrupt (60_exceptions.md rule R410): `IME` and `ei_pending` are cleared, the
source's bit of the stored `IF` is cleared, `PC` is pushed, and control goes to the source's vector.
Nothing else is saved and nothing else changes, `halt_bug` included (log entry 6). -/
def dispatch (src : Source) (s : State) : State :=
  let masked := { s with ime := false, eiPending := false }
  let acked := storeByte masked ifAddr (storedByte s ifAddr &&& ~~~src.mask)
  callTo acked src.vector

/-- Returning from one, the effect of `RETI` (60_exceptions.md rule R412, 45_control.md rule R329):
pop `PC`, set `IME` at once, cancel a pending `EI`. -/
def returnFromInterrupt (s : State) : State :=
  { returnFrom s with ime := true, eiPending := false }

/-- The environment move (60_exceptions.md rule R403): between two steps a platform may set any of
bits 4 to 0 of `IF`; it never clears one. A platform that raises no request, as flat RAM is, never
makes it (20_memory.md rule R81). -/
def environmentMove (requests : Byte) (s : State) : State :=
  if s.params.platform.raises then
    storeByte s ifAddr (storedByte s ifAddr ||| (requests &&& 0x1F))
  else s

/-- The rest of the environment move (60_exceptions.md rule R403): the platform may change any other
device state it owns; flat RAM owns none and never does. -/
def deviceMove (kind : Nat) (s : State) : State :=
  { s with devices := s.params.platform.note s.devices (.change kind) }

/-! ### `HALT` -/

/-- `HALT` under a policy (47_misc.md rule R376). Under `emulate` in the bug condition, the next
fetch does not advance `PC` (70_reset_and_hazards.md rule R461). The test reads `IME` as it is, so
directly after an `EI` the bug condition is met like any other (90_conflicts.md C11, log entry 6). -/
def haltUnder (policy : HaltBugPolicy) (s : State) : Answer :=
  if !s.ime && pending s != 0 then
    match policy with
    | .fault => .fault (.haltBug s)
    | .emulate => .next { s with haltBug := true }
  else .next { s with mode := .halted }

/-! ### What a step does around an instruction (60_exceptions.md rule R420) -/

/-- What the next step is, and the state it starts from. -/
inductive Plan where
  /-- Stopped, or halted with nothing pending: nothing changes (rules R425 and R430). -/
  | stay
  /-- An interrupt is dispatched, from the state awake. -/
  | interrupt (src : Source) (awake : State)
  /-- One instruction is executed, from the state awake. -/
  | execute (awake : State)
  deriving DecidableEq, Repr

/-- `Halted` ends (60_exceptions.md rule R425). -/
def wake (s : State) : State := { s with mode := .running }

/-- The source a running machine dispatches, when `IME = 1` and one is pending (60_exceptions.md
rules R405 and R410). -/
def interruptTaken (s : State) : Option Source :=
  if s.ime then firstSource (pending s) else none

/-- What the next step is (60_exceptions.md rule R420, the lines before the instruction). -/
def plan (s : State) : Plan :=
  if s.mode = .stopped ∨ s.mode = .halted ∧ pending s = 0 then .stay
  else
    match interruptTaken s with
    | some src => .interrupt src (wake s)
    | none => .execute (wake s)

/-- The end of an instruction's step (60_exceptions.md rule R420, the last three lines):
`enableAfter` is `ei_pending` as it was when the step began. -/
def finishEi (enableAfter : Bool) (s : State) : State :=
  if enableAfter && s.eiPending then { s with ime := true, eiPending := false } else s

/-- The rest of a step after its instruction: a fault or a refusal stands as it is. -/
def finishStep (enableAfter : Bool) : Answer → Answer
  | .next s => .next (finishEi enableAfter s)
  | .fault r => .fault r
  | .refused r => .refused r

/-- The state whose very next step fetches the given bytes at `PC` and runs the instruction they
are: running, no `halt_bug`, and `IME` cleared only where an interrupt would be dispatched first
(log entry 7). -/
def placeForFetch (s : State) (bytes : List Byte) : State :=
  let placed := placeBytes { s with mode := .running, haltBug := false } s.pc bytes
  if (interruptTaken placed).isSome then { placed with ime := false } else placed

end Sys2Proof.Machine
end

