-- ==== Sys2Proof/Machine/Alu16.lean ====
section
/-! DEFINITION. The 16-bit arithmetic instructions (spec 41_alu16.md). -/

namespace Sys2Proof.Machine

/-- `ADD HL,r16` (41_alu16.md rule R200). -/
def execAddHLR16 (p : R16) (s : State) : Answer :=
  .next (setHLFlags s (add16 (getHL s) (getR16 s p) s.f))

/-- `ADD HL,SP` (41_alu16.md rule R201). -/
def execAddHLSP (s : State) : Answer := .next (setHLFlags s (add16 (getHL s) s.sp s.f))

/-- `ADD SP,e8` (41_alu16.md rule R202). -/
def execAddSPE8 (e : Byte) (s : State) : Answer :=
  .next { s with sp := (addSP s.sp e).1, f := (addSP s.sp e).2 }

/-- `DEC r16`: no flag records the wrap (41_alu16.md rule R203). -/
def execDecR16 (p : R16) (s : State) : Answer := .next (setR16 s p (getR16 s p - 1))

/-- `DEC SP` (41_alu16.md rule R204). -/
def execDecSP (s : State) : Answer := .next { s with sp := s.sp - 1 }

/-- `INC r16`: no flag records the wrap (41_alu16.md rule R205). -/
def execIncR16 (p : R16) (s : State) : Answer := .next (setR16 s p (getR16 s p + 1))

/-- `INC SP` (41_alu16.md rule R206). -/
def execIncSP (s : State) : Answer := .next { s with sp := s.sp + 1 }

end Sys2Proof.Machine
end

