-- ==== Sys2Proof/Machine/Alu8.lean ====
section
/-! DEFINITION. The 8-bit arithmetic and logic instructions (spec 40_alu8.md): the right operand is a
register, the byte at `HL` or the immediate (rule R181), read before `A` and the flags are written. -/

namespace Sys2Proof.Machine

/-! ### `ADC`: the carry flag is added in -/

/-- `ADC A,r8` (40_alu8.md rule R150). -/
def execAdcAR8 (r : R8) (s : State) : Answer := .next (setAFlags s (add8 s.a (getR8 s r) s.f.c))

/-- `ADC A,[HL]` (40_alu8.md rule R151). -/
def execAdcAAtHL (s : State) : Answer :=
  .next (withRead s (getHL s) fun v t => setAFlags t (add8 t.a v t.f.c))

/-- `ADC A,n8` (40_alu8.md rule R152). -/
def execAdcAN8 (n : Byte) (s : State) : Answer := .next (setAFlags s (add8 s.a n s.f.c))

/-! ### `ADD` -/

/-- `ADD A,r8` (40_alu8.md rule R153). -/
def execAddAR8 (r : R8) (s : State) : Answer := .next (setAFlags s (add8 s.a (getR8 s r) false))

/-- `ADD A,[HL]` (40_alu8.md rule R154). -/
def execAddAAtHL (s : State) : Answer :=
  .next (withRead s (getHL s) fun v t => setAFlags t (add8 t.a v false))

/-- `ADD A,n8` (40_alu8.md rule R155). -/
def execAddAN8 (n : Byte) (s : State) : Answer := .next (setAFlags s (add8 s.a n false))

/-! ### `AND` -/

/-- `AND A,r8` (40_alu8.md rule R156). -/
def execAndAR8 (r : R8) (s : State) : Answer := .next (setAFlags s (and8 s.a (getR8 s r)))

/-- `AND A,[HL]` (40_alu8.md rule R157). -/
def execAndAAtHL (s : State) : Answer :=
  .next (withRead s (getHL s) fun v t => setAFlags t (and8 t.a v))

/-- `AND A,n8` (40_alu8.md rule R158). -/
def execAndAN8 (n : Byte) (s : State) : Answer := .next (setAFlags s (and8 s.a n))

/-! ### `CP`: the flags of `SUB`, and `A` is unchanged -/

/-- `CP A,r8` (40_alu8.md rule R159). -/
def execCpAR8 (r : R8) (s : State) : Answer := .next { s with f := (sub8 s.a (getR8 s r) false).2 }

/-- `CP A,[HL]` (40_alu8.md rule R160). -/
def execCpAAtHL (s : State) : Answer :=
  .next (withRead s (getHL s) fun v t => { t with f := (sub8 t.a v false).2 })

/-- `CP A,n8` (40_alu8.md rule R161). -/
def execCpAN8 (n : Byte) (s : State) : Answer := .next { s with f := (sub8 s.a n false).2 }

/-! ### `DEC` and `INC` of a byte: `C` is unchanged -/

/-- `DEC r8` (40_alu8.md rule R162). -/
def execDecR8 (r : R8) (s : State) : Answer := .next (modifyR8 s r (dec8 · s.f))

/-- `DEC [HL]` (40_alu8.md rule R163). -/
def execDecAtHL (s : State) : Answer := .next (modifyAtHL s (dec8 · s.f))

/-- `INC r8` (40_alu8.md rule R164). -/
def execIncR8 (r : R8) (s : State) : Answer := .next (modifyR8 s r (inc8 · s.f))

/-- `INC [HL]` (40_alu8.md rule R165). -/
def execIncAtHL (s : State) : Answer := .next (modifyAtHL s (inc8 · s.f))

/-! ### `OR` -/

/-- `OR A,r8` (40_alu8.md rule R166). -/
def execOrAR8 (r : R8) (s : State) : Answer := .next (setAFlags s (or8 s.a (getR8 s r)))

/-- `OR A,[HL]` (40_alu8.md rule R167). -/
def execOrAAtHL (s : State) : Answer :=
  .next (withRead s (getHL s) fun v t => setAFlags t (or8 t.a v))

/-- `OR A,n8` (40_alu8.md rule R168). -/
def execOrAN8 (n : Byte) (s : State) : Answer := .next (setAFlags s (or8 s.a n))

/-! ### `SBC`: the carry flag is subtracted too -/

/-- `SBC A,r8` (40_alu8.md rule R171). -/
def execSbcAR8 (r : R8) (s : State) : Answer := .next (setAFlags s (sub8 s.a (getR8 s r) s.f.c))

/-- `SBC A,[HL]` (40_alu8.md rule R172). -/
def execSbcAAtHL (s : State) : Answer :=
  .next (withRead s (getHL s) fun v t => setAFlags t (sub8 t.a v t.f.c))

/-- `SBC A,n8` (40_alu8.md rule R173). -/
def execSbcAN8 (n : Byte) (s : State) : Answer := .next (setAFlags s (sub8 s.a n s.f.c))

/-! ### `SUB` -/

/-- `SUB A,r8` (40_alu8.md rule R174). -/
def execSubAR8 (r : R8) (s : State) : Answer := .next (setAFlags s (sub8 s.a (getR8 s r) false))

/-- `SUB A,[HL]` (40_alu8.md rule R175). -/
def execSubAAtHL (s : State) : Answer :=
  .next (withRead s (getHL s) fun v t => setAFlags t (sub8 t.a v false))

/-- `SUB A,n8` (40_alu8.md rule R176). -/
def execSubAN8 (n : Byte) (s : State) : Answer := .next (setAFlags s (sub8 s.a n false))

/-! ### `XOR` -/

/-- `XOR A,r8` (40_alu8.md rule R177). -/
def execXorAR8 (r : R8) (s : State) : Answer := .next (setAFlags s (xor8 s.a (getR8 s r)))

/-- `XOR A,[HL]` (40_alu8.md rule R178). -/
def execXorAAtHL (s : State) : Answer :=
  .next (withRead s (getHL s) fun v t => setAFlags t (xor8 t.a v))

/-- `XOR A,n8` (40_alu8.md rule R179). -/
def execXorAN8 (n : Byte) (s : State) : Answer := .next (setAFlags s (xor8 s.a n))

end Sys2Proof.Machine
end

