-- ==== Sys2Proof/Machine/Bit.lean ====
section
/-! DEFINITION. Bit test, reset and set, and the nibble swap (spec 42_bit.md). -/

namespace Sys2Proof.Machine

/-- `BIT u3,r8`: nothing but `F` changes (42_bit.md rule R220). -/
def execBitR8 (u : BitVec 3) (r : R8) (s : State) : Answer :=
  .next { s with f := bitFlags u (getR8 s r) s.f }

/-- `BIT u3,[HL]`: one read and no write (42_bit.md rule R221). -/
def execBitAtHL (u : BitVec 3) (s : State) : Answer :=
  .next (withRead s (getHL s) fun v t => { t with f := bitFlags u v t.f })

/-- `RES u3,r8` (42_bit.md rule R222). -/
def execResR8 (u : BitVec 3) (r : R8) (s : State) : Answer := .next (setR8 s r (res8 u (getR8 s r)))

/-- `RES u3,[HL]` (42_bit.md rule R223). -/
def execResAtHL (u : BitVec 3) (s : State) : Answer := .next (modifyAtHL s fun v => (res8 u v, s.f))

/-- `SET u3,r8` (42_bit.md rule R224). -/
def execSetR8 (u : BitVec 3) (r : R8) (s : State) : Answer := .next (setR8 s r (set8 u (getR8 s r)))

/-- `SET u3,[HL]` (42_bit.md rule R225). -/
def execSetAtHL (u : BitVec 3) (s : State) : Answer := .next (modifyAtHL s fun v => (set8 u v, s.f))

/-- `SWAP r8` (42_bit.md rule R226). -/
def execSwapR8 (r : R8) (s : State) : Answer := .next (modifyR8 s r swap8)

/-- `SWAP [HL]` (42_bit.md rule R227). -/
def execSwapAtHL (s : State) : Answer := .next (modifyAtHL s swap8)

end Sys2Proof.Machine
end

