-- ==== Sys2Proof/Machine/Control.lean ====
section
/-! DEFINITION. Jumps, calls, returns and restarts (spec 45_control.md). `PC` is the address of the
following instruction when a meaning begins (10_state.md rule R37). -/

namespace Sys2Proof.Machine

/-- `CALL n16` (45_control.md rule R320). -/
def execCallN16 (n : Word) (s : State) : Answer := .next (callTo s n)

/-- `CALL cc,n16` (45_control.md rule R321). -/
def execCallCcN16 (cc : Cond) (n : Word) (s : State) : Answer := .next (whenCond s cc (callTo · n))

/-- `JP n16` (45_control.md rule R322). -/
def execJpN16 (n : Word) (s : State) : Answer := .next (jumpTo s n)

/-- `JP cc,n16` (45_control.md rule R323). -/
def execJpCcN16 (cc : Cond) (n : Word) (s : State) : Answer := .next (whenCond s cc (jumpTo · n))

/-- `JP HL`: no memory is read (45_control.md rule R324). -/
def execJpHL (s : State) : Answer := .next (jumpTo s (getHL s))

/-- `JR e8` (45_control.md rule R325). -/
def execJrE8 (e : Byte) (s : State) : Answer := .next (jumpTo s (relTarget s e))

/-- `JR cc,e8` (45_control.md rule R326). -/
def execJrCcE8 (cc : Cond) (e : Byte) (s : State) : Answer :=
  .next (whenCond s cc (jumpTo · (relTarget s e)))

/-- `RET` (45_control.md rule R327). -/
def execRet (s : State) : Answer := .next (returnFrom s)

/-- `RET cc` (45_control.md rule R328). -/
def execRetCc (cc : Cond) (s : State) : Answer := .next (whenCond s cc returnFrom)

/-- `RETI`: return and set `IME` with no delay (45_control.md rule R329). -/
def execReti (s : State) : Answer := .next (returnFromInterrupt s)

/-- `RST vec`: a one-byte call (45_control.md rule R330). -/
def execRstVec (vec : Byte) (s : State) : Answer := .next (callTo s (zext16 vec))

end Sys2Proof.Machine
end

