-- ==== Sys2Proof/Machine/Illegal.lean ====
section
/-! DEFINITION. The eleven bytes that encode nothing (spec 30_encoding.md rule R116): executing one is
the fault `IllegalOpcode(op)`, with `PC` past the byte and nothing else changed. -/

namespace Sys2Proof.Machine

/-- The byte `0xD3` encodes nothing. -/
def execIllegalD3 (s : State) : Answer := .fault (.illegalOpcode 0xD3 s)

/-- The byte `0xDB` encodes nothing. -/
def execIllegalDB (s : State) : Answer := .fault (.illegalOpcode 0xDB s)

/-- The byte `0xDD` encodes nothing. -/
def execIllegalDD (s : State) : Answer := .fault (.illegalOpcode 0xDD s)

/-- The byte `0xE3` encodes nothing. -/
def execIllegalE3 (s : State) : Answer := .fault (.illegalOpcode 0xE3 s)

/-- The byte `0xE4` encodes nothing. -/
def execIllegalE4 (s : State) : Answer := .fault (.illegalOpcode 0xE4 s)

/-- The byte `0xEB` encodes nothing. -/
def execIllegalEB (s : State) : Answer := .fault (.illegalOpcode 0xEB s)

/-- The byte `0xEC` encodes nothing. -/
def execIllegalEC (s : State) : Answer := .fault (.illegalOpcode 0xEC s)

/-- The byte `0xED` encodes nothing. -/
def execIllegalED (s : State) : Answer := .fault (.illegalOpcode 0xED s)

/-- The byte `0xF4` encodes nothing. -/
def execIllegalF4 (s : State) : Answer := .fault (.illegalOpcode 0xF4 s)

/-- The byte `0xFC` encodes nothing. -/
def execIllegalFC (s : State) : Answer := .fault (.illegalOpcode 0xFC s)

/-- The byte `0xFD` encodes nothing. -/
def execIllegalFD (s : State) : Answer := .fault (.illegalOpcode 0xFD s)

end Sys2Proof.Machine
end

