-- ==== Sys2Proof/Machine/Load.lean ====
section
/-! DEFINITION. The loads and stores (spec 44_load.md), by the addressing modes of rule R302. -/

namespace Sys2Proof.Machine

/-- `LD r8,r8`: destination, then source (44_load.md rule R280). -/
def execLdR8R8 (dst src : R8) (s : State) : Answer := .next (setR8 s dst (getR8 s src))

/-- `LD r8,n8` (44_load.md rule R281). -/
def execLdR8N8 (r : R8) (n : Byte) (s : State) : Answer := .next (setR8 s r n)

/-- `LD r16,n16` (44_load.md rule R282). -/
def execLdR16N16 (p : R16) (n : Word) (s : State) : Answer := .next (setR16 s p n)

/-- `LD [HL],r8` (44_load.md rule R283). -/
def execLdAtHLR8 (r : R8) (s : State) : Answer := .next (memWrite s (getHL s) (getR8 s r))

/-- `LD [HL],n8` (44_load.md rule R284). -/
def execLdAtHLN8 (n : Byte) (s : State) : Answer := .next (memWrite s (getHL s) n)

/-- `LD r8,[HL]`: the address is the old `HL` (44_load.md rule R285). -/
def execLdR8AtHL (r : R8) (s : State) : Answer :=
  .next (withRead s (getHL s) fun v t => setR8 t r v)

/-- `LD [r16],A` (44_load.md rule R286). -/
def execLdAtR16A (p : R16) (s : State) : Answer := .next (memWrite s (getR16 s p) s.a)

/-- `LD [n16],A` (44_load.md rule R287). -/
def execLdAtN16A (n : Word) (s : State) : Answer := .next (memWrite s n s.a)

/-- `LD [$FF00+n8],A` (44_load.md rule R288). -/
def execLdHighN8A (n : Byte) (s : State) : Answer := .next (memWrite s (highPage n) s.a)

/-- `LD [$FF00+C],A` (44_load.md rule R289). -/
def execLdHighCA (s : State) : Answer := .next (memWrite s (highPage s.c) s.a)

/-- `LD A,[r16]` (44_load.md rule R290). -/
def execLdAAtR16 (p : R16) (s : State) : Answer :=
  .next (withRead s (getR16 s p) fun v t => { t with a := v })

/-- `LD A,[n16]` (44_load.md rule R291). -/
def execLdAAtN16 (n : Word) (s : State) : Answer :=
  .next (withRead s n fun v t => { t with a := v })

/-- `LD A,[$FF00+n8]` (44_load.md rule R292). -/
def execLdAHighN8 (n : Byte) (s : State) : Answer :=
  .next (withRead s (highPage n) fun v t => { t with a := v })

/-- `LD A,[$FF00+C]` (44_load.md rule R293). -/
def execLdAHighC (s : State) : Answer :=
  .next (withRead s (highPage s.c) fun v t => { t with a := v })

/-- `LD [HL+],A`: the store uses the old `HL` (44_load.md rule R294). -/
def execLdAtHLIncA (s : State) : Answer := .next (setHL (memWrite s (getHL s) s.a) (getHL s + 1))

/-- `LD [HL-],A`: the store uses the old `HL` (44_load.md rule R295). -/
def execLdAtHLDecA (s : State) : Answer := .next (setHL (memWrite s (getHL s) s.a) (getHL s - 1))

/-- `LD A,[HL+]`: the load uses the old `HL` (44_load.md rule R296). -/
def execLdAAtHLInc (s : State) : Answer :=
  .next (withRead s (getHL s) fun v t => setHL { t with a := v } (getHL s + 1))

/-- `LD A,[HL-]`: the load uses the old `HL` (44_load.md rule R297). -/
def execLdAAtHLDec (s : State) : Answer :=
  .next (withRead s (getHL s) fun v t => setHL { t with a := v } (getHL s - 1))

/-- `LD SP,n16` (44_load.md rule R298). -/
def execLdSPN16 (n : Word) (s : State) : Answer := .next { s with sp := n }

/-- `LD [n16],SP`: the low byte first (44_load.md rule R299). -/
def execLdAtN16SP (n : Word) (s : State) : Answer := .next (write16 s n s.sp)

/-- `LD HL,SP+e8`: the only load that writes flags (44_load.md rule R300). -/
def execLdHLSPE8 (e : Byte) (s : State) : Answer := .next (setHLFlags s (addSP s.sp e))

/-- `LD SP,HL` (44_load.md rule R301). -/
def execLdSPHL (s : State) : Answer := .next { s with sp := getHL s }

end Sys2Proof.Machine
end

