-- ==== Sys2Proof/Machine/Misc.lean ====
section
/-! DEFINITION. The flag, accumulator-adjust, interrupt-control and power instructions (spec 47_misc.md). -/

namespace Sys2Proof.Machine

/-- `CCF` (47_misc.md rule R360). -/
def execCcf (s : State) : Answer := .next { s with f := ccfFlags s.f }

/-- `CPL` (47_misc.md rule R362). -/
def execCpl (s : State) : Answer := .next { s with a := ~~~s.a, f := cplFlags s.f }

/-- `DAA` (47_misc.md rule R364). -/
def execDaa (s : State) : Answer := .next (setAFlags s (daa8 s.a s.f))

/-- `DI`: immediate, and it cancels a pending `EI` (47_misc.md rule R366). -/
def execDi (s : State) : Answer := .next { s with ime := false, eiPending := false }

/-- `EI`: `IME` becomes 1 after the next instruction (47_misc.md rule R368, `finishEi`). -/
def execEi (s : State) : Answer := .next { s with eiPending := true }

/-- `HALT` (47_misc.md rule R376) under the policy of the machine. -/
def execHalt (s : State) : Answer := haltUnder s.params.haltBugPolicy s

/-- `NOP` (47_misc.md rule R380): nothing; `PC` has advanced by 1. -/
def execNop (s : State) : Answer := .next s

/-- `SCF` (47_misc.md rule R384). -/
def execScf (s : State) : Answer := .next { s with f := scfFlags s.f }

/-- `STOP` (47_misc.md rule R388): the pad byte is ignored, and nothing ends the mode (log entry 11). -/
def execStop (_pad : Byte) (s : State) : Answer := .next { s with mode := .stopped }

end Sys2Proof.Machine
end

