-- ==== Sys2Proof/Machine/RotateShift.lean ====
section
/-! DEFINITION. The rotates and shifts (spec 43_rotate_shift.md), each by its picture of rule R240. -/

namespace Sys2Proof.Machine

/-- `RL r8` (43_rotate_shift.md rule R241). -/
def execRlR8 (r : R8) (s : State) : Answer := .next (modifyR8 s r fun v => rotFlags (rotRL v s.f.c))

/-- `RL [HL]` (43_rotate_shift.md rule R242). -/
def execRlAtHL (s : State) : Answer := .next (modifyAtHL s fun v => rotFlags (rotRL v s.f.c))

/-- `RLA`: `Z` is written 0 (43_rotate_shift.md rule R243). -/
def execRla (s : State) : Answer := .next (setAFlags s (rotFlagsA (rotRL s.a s.f.c)))

/-- `RLC r8` (43_rotate_shift.md rule R244). -/
def execRlcR8 (r : R8) (s : State) : Answer := .next (modifyR8 s r fun v => rotFlags (rotRLC v))

/-- `RLC [HL]` (43_rotate_shift.md rule R245). -/
def execRlcAtHL (s : State) : Answer := .next (modifyAtHL s fun v => rotFlags (rotRLC v))

/-- `RLCA`: `Z` is written 0 (43_rotate_shift.md rule R246). -/
def execRlca (s : State) : Answer := .next (setAFlags s (rotFlagsA (rotRLC s.a)))

/-- `RR r8` (43_rotate_shift.md rule R247). -/
def execRrR8 (r : R8) (s : State) : Answer := .next (modifyR8 s r fun v => rotFlags (rotRR v s.f.c))

/-- `RR [HL]` (43_rotate_shift.md rule R248). -/
def execRrAtHL (s : State) : Answer := .next (modifyAtHL s fun v => rotFlags (rotRR v s.f.c))

/-- `RRA`: `Z` is written 0 (43_rotate_shift.md rule R249). -/
def execRra (s : State) : Answer := .next (setAFlags s (rotFlagsA (rotRR s.a s.f.c)))

/-- `RRC r8` (43_rotate_shift.md rule R250). -/
def execRrcR8 (r : R8) (s : State) : Answer := .next (modifyR8 s r fun v => rotFlags (rotRRC v))

/-- `RRC [HL]` (43_rotate_shift.md rule R251). -/
def execRrcAtHL (s : State) : Answer := .next (modifyAtHL s fun v => rotFlags (rotRRC v))

/-- `RRCA`: `Z` is written 0 (43_rotate_shift.md rule R252). -/
def execRrca (s : State) : Answer := .next (setAFlags s (rotFlagsA (rotRRC s.a)))

/-- `SLA r8` (43_rotate_shift.md rule R253). -/
def execSlaR8 (r : R8) (s : State) : Answer := .next (modifyR8 s r fun v => rotFlags (shiftSLA v))

/-- `SLA [HL]` (43_rotate_shift.md rule R254). -/
def execSlaAtHL (s : State) : Answer := .next (modifyAtHL s fun v => rotFlags (shiftSLA v))

/-- `SRA r8` (43_rotate_shift.md rule R255). -/
def execSraR8 (r : R8) (s : State) : Answer := .next (modifyR8 s r fun v => rotFlags (shiftSRA v))

/-- `SRA [HL]` (43_rotate_shift.md rule R256). -/
def execSraAtHL (s : State) : Answer := .next (modifyAtHL s fun v => rotFlags (shiftSRA v))

/-- `SRL r8` (43_rotate_shift.md rule R257). -/
def execSrlR8 (r : R8) (s : State) : Answer := .next (modifyR8 s r fun v => rotFlags (shiftSRL v))

/-- `SRL [HL]` (43_rotate_shift.md rule R258). -/
def execSrlAtHL (s : State) : Answer := .next (modifyAtHL s fun v => rotFlags (shiftSRL v))

end Sys2Proof.Machine
end

