-- ==== Sys2Proof/Machine/Stack.lean ====
section
/-! DEFINITION. The stack instructions (spec 46_stack.md). -/

namespace Sys2Proof.Machine

/-- `POP AF`: the flags are bits 7 to 4 of the byte at the lower address (46_stack.md rule R350). -/
def execPopAF (s : State) : Answer := .next (setAF (pop16 s).2 (pop16 s).1)

/-- `POP r16` (46_stack.md rule R351). -/
def execPopR16 (p : R16) (s : State) : Answer := .next (setR16 (pop16 s).2 p (pop16 s).1)

/-- `PUSH AF`: the low four bits of the byte for `F` are 0 (46_stack.md rule R352). -/
def execPushAF (s : State) : Answer := .next (push16 s (getAF s))

/-- `PUSH r16` (46_stack.md rule R353). -/
def execPushR16 (p : R16) (s : State) : Answer := .next (push16 s (getR16 s p))

end Sys2Proof.Machine
end

