-- ==== Sys2Proof/Machine/Dispatch.lean ====
section
/-! DEFINITION. The dispatch of an instruction to its meaning, one arm per constructor (spec files
40_alu8.md to 47_misc.md, 30_encoding.md rule R116). -/

namespace Sys2Proof.Machine

/-- The effect of one instruction, on the state after its bytes are fetched (10_state.md rule R37:
`PC` is the address of the following instruction). -/
def exec (i : Instr) (s : State) : Host.Outcome State Fault Refusal :=
  match i with
  -- 8-bit arithmetic and logic (40_alu8.md)
  | .adcAR8 r => Sys2Proof.Machine.execAdcAR8 r s
  | .adcAAtHL => Sys2Proof.Machine.execAdcAAtHL s
  | .adcAN8 n => Sys2Proof.Machine.execAdcAN8 n s
  | .addAR8 r => Sys2Proof.Machine.execAddAR8 r s
  | .addAAtHL => Sys2Proof.Machine.execAddAAtHL s
  | .addAN8 n => Sys2Proof.Machine.execAddAN8 n s
  | .andAR8 r => Sys2Proof.Machine.execAndAR8 r s
  | .andAAtHL => Sys2Proof.Machine.execAndAAtHL s
  | .andAN8 n => Sys2Proof.Machine.execAndAN8 n s
  | .cpAR8 r => Sys2Proof.Machine.execCpAR8 r s
  | .cpAAtHL => Sys2Proof.Machine.execCpAAtHL s
  | .cpAN8 n => Sys2Proof.Machine.execCpAN8 n s
  | .decR8 r => Sys2Proof.Machine.execDecR8 r s
  | .decAtHL => Sys2Proof.Machine.execDecAtHL s
  | .incR8 r => Sys2Proof.Machine.execIncR8 r s
  | .incAtHL => Sys2Proof.Machine.execIncAtHL s
  | .orAR8 r => Sys2Proof.Machine.execOrAR8 r s
  | .orAAtHL => Sys2Proof.Machine.execOrAAtHL s
  | .orAN8 n => Sys2Proof.Machine.execOrAN8 n s
  | .sbcAR8 r => Sys2Proof.Machine.execSbcAR8 r s
  | .sbcAAtHL => Sys2Proof.Machine.execSbcAAtHL s
  | .sbcAN8 n => Sys2Proof.Machine.execSbcAN8 n s
  | .subAR8 r => Sys2Proof.Machine.execSubAR8 r s
  | .subAAtHL => Sys2Proof.Machine.execSubAAtHL s
  | .subAN8 n => Sys2Proof.Machine.execSubAN8 n s
  | .xorAR8 r => Sys2Proof.Machine.execXorAR8 r s
  | .xorAAtHL => Sys2Proof.Machine.execXorAAtHL s
  | .xorAN8 n => Sys2Proof.Machine.execXorAN8 n s
  -- 16-bit arithmetic (41_alu16.md)
  | .addHLR16 p => Sys2Proof.Machine.execAddHLR16 p s
  | .addHLSP => Sys2Proof.Machine.execAddHLSP s
  | .addSPE8 e => Sys2Proof.Machine.execAddSPE8 e s
  | .decR16 p => Sys2Proof.Machine.execDecR16 p s
  | .decSP => Sys2Proof.Machine.execDecSP s
  | .incR16 p => Sys2Proof.Machine.execIncR16 p s
  | .incSP => Sys2Proof.Machine.execIncSP s
  -- Bit test, reset, set, nibble swap (42_bit.md)
  | .bitR8 u r => Sys2Proof.Machine.execBitR8 u r s
  | .bitAtHL u => Sys2Proof.Machine.execBitAtHL u s
  | .resR8 u r => Sys2Proof.Machine.execResR8 u r s
  | .resAtHL u => Sys2Proof.Machine.execResAtHL u s
  | .setR8 u r => Sys2Proof.Machine.execSetR8 u r s
  | .setAtHL u => Sys2Proof.Machine.execSetAtHL u s
  | .swapR8 r => Sys2Proof.Machine.execSwapR8 r s
  | .swapAtHL => Sys2Proof.Machine.execSwapAtHL s
  -- Rotates and shifts (43_rotate_shift.md)
  | .rlR8 r => Sys2Proof.Machine.execRlR8 r s
  | .rlAtHL => Sys2Proof.Machine.execRlAtHL s
  | .rla => Sys2Proof.Machine.execRla s
  | .rlcR8 r => Sys2Proof.Machine.execRlcR8 r s
  | .rlcAtHL => Sys2Proof.Machine.execRlcAtHL s
  | .rlca => Sys2Proof.Machine.execRlca s
  | .rrR8 r => Sys2Proof.Machine.execRrR8 r s
  | .rrAtHL => Sys2Proof.Machine.execRrAtHL s
  | .rra => Sys2Proof.Machine.execRra s
  | .rrcR8 r => Sys2Proof.Machine.execRrcR8 r s
  | .rrcAtHL => Sys2Proof.Machine.execRrcAtHL s
  | .rrca => Sys2Proof.Machine.execRrca s
  | .slaR8 r => Sys2Proof.Machine.execSlaR8 r s
  | .slaAtHL => Sys2Proof.Machine.execSlaAtHL s
  | .sraR8 r => Sys2Proof.Machine.execSraR8 r s
  | .sraAtHL => Sys2Proof.Machine.execSraAtHL s
  | .srlR8 r => Sys2Proof.Machine.execSrlR8 r s
  | .srlAtHL => Sys2Proof.Machine.execSrlAtHL s
  -- Loads and stores (44_load.md)
  | .ldR8R8 dst src => Sys2Proof.Machine.execLdR8R8 dst src s
  | .ldR8N8 r n => Sys2Proof.Machine.execLdR8N8 r n s
  | .ldR16N16 p n => Sys2Proof.Machine.execLdR16N16 p n s
  | .ldAtHLR8 r => Sys2Proof.Machine.execLdAtHLR8 r s
  | .ldAtHLN8 n => Sys2Proof.Machine.execLdAtHLN8 n s
  | .ldR8AtHL r => Sys2Proof.Machine.execLdR8AtHL r s
  | .ldAtR16A p => Sys2Proof.Machine.execLdAtR16A p s
  | .ldAtN16A n => Sys2Proof.Machine.execLdAtN16A n s
  | .ldHighN8A n => Sys2Proof.Machine.execLdHighN8A n s
  | .ldHighCA => Sys2Proof.Machine.execLdHighCA s
  | .ldAAtR16 p => Sys2Proof.Machine.execLdAAtR16 p s
  | .ldAAtN16 n => Sys2Proof.Machine.execLdAAtN16 n s
  | .ldAHighN8 n => Sys2Proof.Machine.execLdAHighN8 n s
  | .ldAHighC => Sys2Proof.Machine.execLdAHighC s
  | .ldAtHLIncA => Sys2Proof.Machine.execLdAtHLIncA s
  | .ldAtHLDecA => Sys2Proof.Machine.execLdAtHLDecA s
  | .ldAAtHLInc => Sys2Proof.Machine.execLdAAtHLInc s
  | .ldAAtHLDec => Sys2Proof.Machine.execLdAAtHLDec s
  | .ldSPN16 n => Sys2Proof.Machine.execLdSPN16 n s
  | .ldAtN16SP n => Sys2Proof.Machine.execLdAtN16SP n s
  | .ldHLSPE8 e => Sys2Proof.Machine.execLdHLSPE8 e s
  | .ldSPHL => Sys2Proof.Machine.execLdSPHL s
  -- Jumps, calls, returns, restarts (45_control.md)
  | .callN16 n => Sys2Proof.Machine.execCallN16 n s
  | .callCcN16 cc n => Sys2Proof.Machine.execCallCcN16 cc n s
  | .jpN16 n => Sys2Proof.Machine.execJpN16 n s
  | .jpCcN16 cc n => Sys2Proof.Machine.execJpCcN16 cc n s
  | .jpHL => Sys2Proof.Machine.execJpHL s
  | .jrE8 e => Sys2Proof.Machine.execJrE8 e s
  | .jrCcE8 cc e => Sys2Proof.Machine.execJrCcE8 cc e s
  | .ret => Sys2Proof.Machine.execRet s
  | .retCc cc => Sys2Proof.Machine.execRetCc cc s
  | .reti => Sys2Proof.Machine.execReti s
  | .rstVec vec => Sys2Proof.Machine.execRstVec vec s
  -- Stack (46_stack.md)
  | .popAF => Sys2Proof.Machine.execPopAF s
  | .popR16 p => Sys2Proof.Machine.execPopR16 p s
  | .pushAF => Sys2Proof.Machine.execPushAF s
  | .pushR16 p => Sys2Proof.Machine.execPushR16 p s
  -- Flag, adjust, interrupt-control and power instructions (47_misc.md)
  | .ccf => Sys2Proof.Machine.execCcf s
  | .cpl => Sys2Proof.Machine.execCpl s
  | .daa => Sys2Proof.Machine.execDaa s
  | .di => Sys2Proof.Machine.execDi s
  | .ei => Sys2Proof.Machine.execEi s
  | .halt => Sys2Proof.Machine.execHalt s
  | .nop => Sys2Proof.Machine.execNop s
  | .scf => Sys2Proof.Machine.execScf s
  | .stop pad => Sys2Proof.Machine.execStop pad s
  -- The eleven bytes that encode nothing (30_encoding.md rule R116)
  | .illegalD3 => Sys2Proof.Machine.execIllegalD3 s
  | .illegalDB => Sys2Proof.Machine.execIllegalDB s
  | .illegalDD => Sys2Proof.Machine.execIllegalDD s
  | .illegalE3 => Sys2Proof.Machine.execIllegalE3 s
  | .illegalE4 => Sys2Proof.Machine.execIllegalE4 s
  | .illegalEB => Sys2Proof.Machine.execIllegalEB s
  | .illegalEC => Sys2Proof.Machine.execIllegalEC s
  | .illegalED => Sys2Proof.Machine.execIllegalED s
  | .illegalF4 => Sys2Proof.Machine.execIllegalF4 s
  | .illegalFC => Sys2Proof.Machine.execIllegalFC s
  | .illegalFD => Sys2Proof.Machine.execIllegalFD s

end Sys2Proof.Machine
end

