-- ==== Sys2Proof/Machine/Step.lean ====
section
/-! DEFINITION. One step of the machine (spec 60_exceptions.md rule R420), and the place where a step
fetches its next instruction. Every operation is called from `Machine/Ops.lean`. -/

namespace Sys2Proof.Machine

/-- `Step` (60_exceptions.md rule R420): nothing, or one interrupt dispatch, or one instruction. -/
def step (s : State) : Host.Outcome State Fault Refusal :=
  match plan s with
  | .stay => .next s
  | .interrupt src awake => .next (dispatch src awake)
  | .execute awake =>
    finishStep s.eiPending (exec (fetchInstr awake).1 (fetchInstr awake).2)

/-- The state with the instruction of an opcode-table row stored where the next step fetches it, at
`PC` and the two bytes after (log entries 7 and 8). -/
def State.withFetchWord (s : State) (nbits w : Nat) : State :=
  placeForFetch s (tableBytes nbits w)

end Sys2Proof.Machine
end

