-- ==== Sys2Proof/Machine/Timing.lean ====
section
/-! DEFINITION. The lengths and the cycle counts of the instructions, transcribed from spec
70_reset_and_hazards.md rules R470 and R471. Timing is not semantics (00_scope.md rule R13): no step
reads a cycle count (log entry 14). -/

namespace Sys2Proof.Machine

/-- The `Bytes:` line of every entry (70_reset_and_hazards.md rule R470), and 1 for the eleven
illegal bytes, which are opcodes with nothing after them. -/
def instrBytes : Instr → Nat
  | .adcAR8 _ | .adcAAtHL | .addAR8 _ | .addAAtHL | .andAR8 _ | .andAAtHL | .cpAR8 _ | .cpAAtHL
  | .decR8 _ | .decAtHL | .incR8 _ | .incAtHL | .orAR8 _ | .orAAtHL | .sbcAR8 _ | .sbcAAtHL
  | .subAR8 _ | .subAAtHL | .xorAR8 _ | .xorAAtHL | .addHLR16 _ | .addHLSP | .decR16 _ | .decSP
  | .incR16 _ | .incSP | .rla | .rlca | .rra | .rrca | .ldR8R8 _ _ | .ldAtHLR8 _ | .ldR8AtHL _
  | .ldAtR16A _ | .ldHighCA | .ldAAtR16 _ | .ldAHighC | .ldAtHLIncA | .ldAtHLDecA | .ldAAtHLInc
  | .ldAAtHLDec | .ldSPHL | .jpHL | .ret | .retCc _ | .reti | .rstVec _ | .popAF | .popR16 _
  | .pushAF | .pushR16 _ | .ccf | .cpl | .daa | .di | .ei | .halt | .nop | .scf | .illegalD3
  | .illegalDB | .illegalDD | .illegalE3 | .illegalE4 | .illegalEB | .illegalEC | .illegalED
  | .illegalF4 | .illegalFC | .illegalFD => 1
  | .adcAN8 _ | .addAN8 _ | .andAN8 _ | .cpAN8 _ | .orAN8 _ | .sbcAN8 _ | .subAN8 _ | .xorAN8 _
  | .addSPE8 _ | .bitR8 _ _ | .bitAtHL _ | .resR8 _ _ | .resAtHL _ | .setR8 _ _ | .setAtHL _
  | .swapR8 _ | .swapAtHL | .rlR8 _ | .rlAtHL | .rlcR8 _ | .rlcAtHL | .rrR8 _ | .rrAtHL
  | .rrcR8 _ | .rrcAtHL | .slaR8 _ | .slaAtHL | .sraR8 _ | .sraAtHL | .srlR8 _ | .srlAtHL
  | .ldR8N8 _ _ | .ldAtHLN8 _ | .ldHighN8A _ | .ldAHighN8 _ | .ldHLSPE8 _ | .jrE8 _
  | .jrCcE8 _ _ | .stop _ => 2
  | .ldR16N16 _ _ | .ldAtN16A _ | .ldAAtN16 _ | .ldSPN16 _ | .ldAtN16SP _ | .callN16 _
  | .callCcN16 _ _ | .jpN16 _ | .jpCcN16 _ _ => 3

/-- The `Cycles:` line of every entry (70_reset_and_hazards.md rule R470), as the figures for the
condition met and not met; the two agree where the instruction has no condition. `HALT` and `STOP`
have none (90_conflicts.md C9), nor do the illegal bytes. -/
def instrCycles : Instr → Option (Nat × Nat)
  | .adcAR8 _ | .addAR8 _ | .andAR8 _ | .cpAR8 _ | .decR8 _ | .incR8 _ | .orAR8 _ | .sbcAR8 _
  | .subAR8 _ | .xorAR8 _ | .rla | .rlca | .rra | .rrca | .ldR8R8 _ _ | .jpHL | .ccf | .cpl
  | .daa | .di | .ei | .nop | .scf => some (1, 1)
  | .adcAAtHL | .adcAN8 _ | .addAAtHL | .addAN8 _ | .andAAtHL | .andAN8 _ | .cpAAtHL | .cpAN8 _
  | .orAAtHL | .orAN8 _ | .sbcAAtHL | .sbcAN8 _ | .subAAtHL | .subAN8 _ | .xorAAtHL | .xorAN8 _
  | .addHLR16 _ | .addHLSP | .decR16 _ | .decSP | .incR16 _ | .incSP | .bitR8 _ _ | .resR8 _ _
  | .setR8 _ _ | .swapR8 _ | .rlR8 _ | .rlcR8 _ | .rrR8 _ | .rrcR8 _ | .slaR8 _ | .sraR8 _
  | .srlR8 _ | .ldR8N8 _ _ | .ldAtHLR8 _ | .ldR8AtHL _ | .ldAtR16A _ | .ldHighCA | .ldAAtR16 _
  | .ldAHighC | .ldAtHLIncA | .ldAtHLDecA | .ldAAtHLInc | .ldAAtHLDec | .ldSPHL => some (2, 2)
  | .jrCcE8 _ _ => some (3, 2)
  | .decAtHL | .incAtHL | .bitAtHL _ | .ldR16N16 _ _ | .ldAtHLN8 _ | .ldHighN8A _
  | .ldAHighN8 _ | .ldSPN16 _ | .ldHLSPE8 _ | .jrE8 _ | .popAF | .popR16 _ => some (3, 3)
  | .jpCcN16 _ _ => some (4, 3)
  | .addSPE8 _ | .resAtHL _ | .setAtHL _ | .swapAtHL | .rlAtHL | .rlcAtHL | .rrAtHL | .rrcAtHL
  | .slaAtHL | .sraAtHL | .srlAtHL | .ldAtN16A _ | .ldAAtN16 _ | .jpN16 _ | .ret | .reti
  | .rstVec _ | .pushAF | .pushR16 _ => some (4, 4)
  | .retCc _ => some (5, 2)
  | .ldAtN16SP _ => some (5, 5)
  | .callCcN16 _ _ => some (6, 3)
  | .callN16 _ => some (6, 6)
  | .halt | .stop _ | .illegalD3 | .illegalDB | .illegalDD | .illegalE3 | .illegalE4
  | .illegalEB | .illegalEC | .illegalED | .illegalF4 | .illegalFC | .illegalFD => none

/-- How many single-byte data accesses an instruction makes besides its fetches, when its condition
is met and when it is not (20_memory.md rule R75). -/
def dataAccesses : Instr → Nat × Nat
  | .adcAR8 _ | .adcAN8 _ | .addAR8 _ | .addAN8 _ | .andAR8 _ | .andAN8 _ | .cpAR8 _ | .cpAN8 _
  | .decR8 _ | .incR8 _ | .orAR8 _ | .orAN8 _ | .sbcAR8 _ | .sbcAN8 _ | .subAR8 _ | .subAN8 _
  | .xorAR8 _ | .xorAN8 _ | .addHLR16 _ | .addHLSP | .addSPE8 _ | .decR16 _ | .decSP
  | .incR16 _ | .incSP | .bitR8 _ _ | .resR8 _ _ | .setR8 _ _ | .swapR8 _ | .rlR8 _ | .rla
  | .rlcR8 _ | .rlca | .rrR8 _ | .rra | .rrcR8 _ | .rrca | .slaR8 _ | .sraR8 _ | .srlR8 _
  | .ldR8R8 _ _ | .ldR8N8 _ _ | .ldR16N16 _ _ | .ldSPN16 _ | .ldHLSPE8 _ | .ldSPHL | .jpN16 _
  | .jpCcN16 _ _ | .jpHL | .jrE8 _ | .jrCcE8 _ _ | .ccf | .cpl | .daa | .di | .ei | .halt
  | .nop | .scf | .stop _ | .illegalD3 | .illegalDB | .illegalDD | .illegalE3 | .illegalE4
  | .illegalEB | .illegalEC | .illegalED | .illegalF4 | .illegalFC | .illegalFD => (0, 0)
  | .adcAAtHL | .addAAtHL | .andAAtHL | .cpAAtHL | .orAAtHL | .sbcAAtHL | .subAAtHL | .xorAAtHL
  | .bitAtHL _ | .ldAtHLR8 _ | .ldAtHLN8 _ | .ldR8AtHL _ | .ldAtR16A _ | .ldAtN16A _
  | .ldHighN8A _ | .ldHighCA | .ldAAtR16 _ | .ldAAtN16 _ | .ldAHighN8 _ | .ldAHighC
  | .ldAtHLIncA | .ldAtHLDecA | .ldAAtHLInc | .ldAAtHLDec => (1, 1)
  | .callCcN16 _ _ | .retCc _ => (2, 0)
  | .decAtHL | .incAtHL | .resAtHL _ | .setAtHL _ | .swapAtHL | .rlAtHL | .rlcAtHL | .rrAtHL
  | .rrcAtHL | .slaAtHL | .sraAtHL | .srlAtHL | .ldAtN16SP _ | .callN16 _ | .ret | .reti
  | .rstVec _ | .popAF | .popR16 _ | .pushAF | .pushR16 _ => (2, 2)

/-- The condition of a conditional instruction (30_encoding.md rule R110). -/
def condOf : Instr → Option Cond
  | .callCcN16 cc _ | .jpCcN16 cc _ | .jrCcE8 cc _ | .retCc cc => some cc
  | _ => none

/-- Of a pair of figures, the one that applies in a state: the first when the condition is met or
there is none (70_reset_and_hazards.md rule R471). -/
def figureIn (i : Instr) (s : State) (figures : Nat × Nat) : Nat :=
  match condOf i with
  | some cc => if condHolds s cc then figures.1 else figures.2
  | none => figures.1

/-- The cycles an instruction takes in a state, in machine cycles. -/
def cyclesIn (i : Instr) (s : State) : Option Nat := (instrCycles i).map (figureIn i s)

/-- The cycles of an interrupt dispatch (60_exceptions.md rule R410, 70_reset_and_hazards.md
rule R471). -/
def dispatchCycles : Nat := 5

end Sys2Proof.Machine
end

