-- ==== Sys2Proof/Machine/Accesses.lean ====
section
/-! DEFINITION. The data accesses of every instruction, in order, as the table of spec 20_memory.md
rule R75 lists them: data beside the meanings, which no step reads. The fetches come before them
(30_encoding.md rule R104). -/

namespace Sys2Proof.Machine

/-- `Push16(w)`: the high byte at `SP-1`, then the low byte at `SP-2` (20_memory.md rule R77). -/
def pushWrites (s : State) (w : Word) : List DeviceEvent :=
  [.write (s.sp - 1) (hiByte w), .write (s.sp - 2) (loByte w)]

/-- `Pop16()`: the low byte at `SP`, then the high byte at `SP+1` (20_memory.md rule R78). -/
def popReads (s : State) : List DeviceEvent := [.read s.sp, .read (s.sp + 1)]

/-- `Write16(a, w)`: the low byte, then the high byte at the next address (20_memory.md rule R76). -/
def wordWrites (a w : Word) : List DeviceEvent := [.write a (loByte w), .write (a + 1) (hiByte w)]

/-- A read-modify-write of the byte at `HL`: one read, then one write of what `g` makes of the byte
(20_memory.md rule R75). -/
def modifyAccesses (s : State) (g : Byte → Byte) : List DeviceEvent :=
  [.read (getHL s), .write (getHL s) (g (peek s (getHL s)))]

/-- The data accesses of an instruction, in order (20_memory.md rule R75), in the state its meaning
begins with. -/
def accessesOf (i : Instr) (s : State) : List DeviceEvent :=
  match i with
  | .adcAAtHL | .addAAtHL | .andAAtHL | .cpAAtHL | .orAAtHL | .sbcAAtHL | .subAAtHL | .xorAAtHL
  | .bitAtHL _ | .ldR8AtHL _ | .ldAAtHLInc | .ldAAtHLDec => [.read (getHL s)]
  | .ldAAtR16 p => [.read (getR16 s p)]
  | .ldAAtN16 n => [.read n]
  | .ldAHighN8 n => [.read (highPage n)]
  | .ldAHighC => [.read (highPage s.c)]
  | .ldAtHLR8 r => [.write (getHL s) (getR8 s r)]
  | .ldAtHLN8 n => [.write (getHL s) n]
  | .ldAtHLIncA | .ldAtHLDecA => [.write (getHL s) s.a]
  | .ldAtR16A p => [.write (getR16 s p) s.a]
  | .ldAtN16A n => [.write n s.a]
  | .ldHighN8A n => [.write (highPage n) s.a]
  | .ldHighCA => [.write (highPage s.c) s.a]
  | .ldAtN16SP n => wordWrites n s.sp
  | .incAtHL => modifyAccesses s fun v => (inc8 v s.f).1
  | .decAtHL => modifyAccesses s fun v => (dec8 v s.f).1
  | .resAtHL u => modifyAccesses s (res8 u)
  | .setAtHL u => modifyAccesses s (set8 u)
  | .swapAtHL => modifyAccesses s fun v => (swap8 v).1
  | .rlAtHL => modifyAccesses s fun v => (rotRL v s.f.c).1
  | .rlcAtHL => modifyAccesses s fun v => (rotRLC v).1
  | .rrAtHL => modifyAccesses s fun v => (rotRR v s.f.c).1
  | .rrcAtHL => modifyAccesses s fun v => (rotRRC v).1
  | .slaAtHL => modifyAccesses s fun v => (shiftSLA v).1
  | .sraAtHL => modifyAccesses s fun v => (shiftSRA v).1
  | .srlAtHL => modifyAccesses s fun v => (shiftSRL v).1
  | .callN16 _ | .rstVec _ => pushWrites s s.pc
  | .callCcN16 cc _ => if condHolds s cc then pushWrites s s.pc else []
  | .pushAF => pushWrites s (getAF s)
  | .pushR16 p => pushWrites s (getR16 s p)
  | .ret | .reti | .popAF | .popR16 _ => popReads s
  | .retCc cc => if condHolds s cc then popReads s else []
  | .adcAR8 _ | .adcAN8 _ | .addAR8 _ | .addAN8 _ | .andAR8 _ | .andAN8 _ | .cpAR8 _ | .cpAN8 _
  | .decR8 _ | .incR8 _ | .orAR8 _ | .orAN8 _ | .sbcAR8 _ | .sbcAN8 _ | .subAR8 _ | .subAN8 _
  | .xorAR8 _ | .xorAN8 _ | .addHLR16 _ | .addHLSP | .addSPE8 _ | .decR16 _ | .decSP
  | .incR16 _ | .incSP | .bitR8 _ _ | .resR8 _ _ | .setR8 _ _ | .swapR8 _ | .rlR8 _ | .rla
  | .rlcR8 _ | .rlca | .rrR8 _ | .rra | .rrcR8 _ | .rrca | .slaR8 _ | .sraR8 _ | .srlR8 _
  | .ldR8R8 _ _ | .ldR8N8 _ _ | .ldR16N16 _ _ | .ldSPN16 _ | .ldHLSPE8 _ | .ldSPHL | .jpN16 _
  | .jpCcN16 _ _ | .jpHL | .jrE8 _ | .jrCcE8 _ _ | .ccf | .cpl | .daa | .di | .ei | .halt
  | .nop | .scf | .stop _ | .illegalD3 | .illegalDB | .illegalDD | .illegalE3 | .illegalE4
  | .illegalEB | .illegalEC | .illegalED | .illegalF4 | .illegalFC | .illegalFD => []

end Sys2Proof.Machine
end

