-- ==== Sys2Proof/Machine/Assembly.lean ====
section
/-! DEFINITION. The assembler level (spec 00_scope.md rule R5): the source's syntax as far as its
headings and notes show it (30_encoding.md rules R126 to R131), as lines of a mnemonic and operands,
their text, the instruction a line means, and the line that means an instruction. What the headings
leave to the tool is log entry 13. -/

namespace Sys2Proof.Machine

/-- The mnemonics of the source's headings, and `LDH` (30_encoding.md rule R128). `LDI` and `LDD`, which
rule R129 says rgbasm also accepts, are not accepted (DESIGN CHOICE, log entry 13). -/
inductive Mnem where
  | adc | add | and | bit | call | ccf | cp | cpl | daa | dec | di | ei | halt | inc | jp | jr | ld
  | ldh | nop | or | pop | push | res | ret | reti | rl | rla | rlc | rlca | rr | rra | rrc | rrca
  | rst | sbc | scf | set | sla | sra | srl | stop | sub | swap | xor
  deriving DecidableEq, Repr

/-- An operand as it is written (30_encoding.md rule R126). A register `C` and the condition `C` are
the same text, so there is one operand for both. `[HLI]` and `[HLD]`, which rule R129 says rgbasm also
accepts, are not accepted (DESIGN CHOICE, log entry 13). -/
inductive AsmOperand where
  | reg (r : R8)
  | pair (p : R16)
  | af
  | sp
  /-- A condition other than `C`. -/
  | nz | z | nc
  /-- A constant or an address. -/
  | num (v : Int)
  /-- `SP+e8`. -/
  | spPlus (v : Int)
  /-- `[BC]`, `[DE]` or `[HL]`. -/
  | atPair (p : R16)
  | atHLInc
  | atHLDec
  /-- `[n16]`. -/
  | atNum (v : Int)
  /-- `[$FF00+n8]`. -/
  | atHigh (v : Int)
  /-- `[$FF00+C]`. -/
  | atHighC
  deriving DecidableEq, Repr

/-- A line: a mnemonic, then its operands, destination first (30_encoding.md rule R126). -/
structure AsmLine where
  mnem : Mnem
  operands : List AsmOperand
  deriving DecidableEq, Repr

/-! ### Operand values (00_scope.md rule R11) -/

/-- `n8`: 0 to 255, and -128 to -1 stored modulo 256. -/
def asmN8 (v : Int) : Option Byte := if -128 ≤ v ∧ v ≤ 255 then some (trunc8 v) else none

/-- `n16`: 0 to 65535. -/
def asmN16 (v : Int) : Option Word := if 0 ≤ v ∧ v ≤ 65535 then some (trunc16 v) else none

/-- `e8`: -128 to 127. -/
def asmE8 (v : Int) : Option Byte := if -128 ≤ v ∧ v ≤ 127 then some (trunc8 v) else none

/-- `u3`: 0 to 7. -/
def asmU3 (v : Int) : Option (BitVec 3) := if 0 ≤ v ∧ v ≤ 7 then some (BitVec.ofInt 3 v) else none

/-- `vec`: one of the eight restart addresses. -/
def asmVec (v : Int) : Option Byte :=
  if restartVectors.contains (trunc8 v) ∧ 0 ≤ v ∧ v ≤ 0x38 then some (trunc8 v) else none

/-- `cc`: the register `C` in a condition's place is the condition `C`. -/
def asmCond : AsmOperand → Option Cond
  | .nz => some .nz
  | .z => some .z
  | .nc => some .nc
  | .reg .c => some .c
  | _ => none

/-- The operand of `JR`: a target address, from which the assembler computes
`e8 = target - (address of the JR + 2)` and refuses one out of range (30_encoding.md rule R130). The
difference is taken within the 16-bit space (log entry 13). -/
def asmJrTarget (here : Word) (v : Int) : Option Byte :=
  (asmN16 v).bind fun target => asmE8 (target - (here + 2)).toInt

/-- `$FF00+n8`, written as the sum's offset or, after `LDH`, as the whole address (30_encoding.md
rule R128). Here `n8` is 0 to 255 only: whether it may be written -128 to -1 in this operand too the
spec leaves open (DESIGN CHOICE, log entry 13). -/
def asmHigh (v : Int) : Option Byte := if 0 ≤ v ∧ v ≤ 255 then some (trunc8 v) else none

/-! ### What a line means -/

/-- The three operand forms of an operation on `A` (40_alu8.md rule R181). -/
def asmAlu (reg : R8 → Instr) (atHL : Instr) (imm : Byte → Instr) : AsmOperand → Option Instr
  | .reg r => some (reg r)
  | .atPair .hl => some atHL
  | .num v => (asmN8 v).map imm
  | _ => none

/-- An operation whose destination `A` may be omitted (30_encoding.md rule R127). -/
def asmAluLine (reg : R8 → Instr) (atHL : Instr) (imm : Byte → Instr) :
    List AsmOperand → Option Instr
  | [.reg .a, x] => asmAlu reg atHL imm x
  | [x] => asmAlu reg atHL imm x
  | _ => none

/-- `ADD` has two destinations besides `A`, and they cannot be omitted (30_encoding.md
rule R127). -/
def asmAdd : List AsmOperand → Option Instr
  | [.pair .hl, .pair p] => some (.addHLR16 p)
  | [.pair .hl, .sp] => some .addHLSP
  | [.sp, .num v] => (asmE8 v).map .addSPE8
  | ops => asmAluLine .addAR8 .addAAtHL .addAN8 ops

/-- An operation on one `r8` or `[HL]`. -/
def asmUnary (reg : R8 → Instr) (atHL : Instr) : List AsmOperand → Option Instr
  | [.reg r] => some (reg r)
  | [.atPair .hl] => some atHL
  | _ => none

/-- `INC` and `DEC` also have the pairs and `SP`. -/
def asmCount (reg : R8 → Instr) (atHL : Instr) (pair : R16 → Instr) (sp : Instr) :
    List AsmOperand → Option Instr
  | [.pair p] => some (pair p)
  | [.sp] => some sp
  | ops => asmUnary reg atHL ops

/-- `BIT`, `RES` and `SET`: the bit number before the operand. -/
def asmBit (reg : BitVec 3 → R8 → Instr) (atHL : BitVec 3 → Instr) :
    List AsmOperand → Option Instr
  | [.num v, .reg r] => (asmU3 v).map (reg · r)
  | [.num v, .atPair .hl] => (asmU3 v).map atHL
  | _ => none

/-- `LD` (44_load.md): `LD [HL],A` and `LD A,[HL]` are the `r8` forms (90_conflicts.md C6), and
`LD [n16],A` and `LD A,[n16]` are always the 3-byte forms (92_eei_decisions.md D25). -/
def asmLd : List AsmOperand → Option Instr
  | [.reg dst, .reg src] => some (.ldR8R8 dst src)
  | [.reg r, .num v] => (asmN8 v).map (.ldR8N8 r)
  | [.pair .hl, .spPlus v] => (asmE8 v).map .ldHLSPE8
  | [.pair p, .num v] => (asmN16 v).map (.ldR16N16 p)
  | [.sp, .num v] => (asmN16 v).map .ldSPN16
  | [.sp, .pair .hl] => some .ldSPHL
  | [.atNum v, .sp] => (asmN16 v).map .ldAtN16SP
  | [.atPair .hl, .reg r] => some (.ldAtHLR8 r)
  | [.atPair .hl, .num v] => (asmN8 v).map .ldAtHLN8
  | [.reg r, .atPair .hl] => some (.ldR8AtHL r)
  | [.atPair p, .reg .a] => some (.ldAtR16A p)
  | [.reg .a, .atPair p] => some (.ldAAtR16 p)
  | [.atNum v, .reg .a] => (asmN16 v).map .ldAtN16A
  | [.reg .a, .atNum v] => (asmN16 v).map .ldAAtN16
  | [.atHigh v, .reg .a] => (asmHigh v).map .ldHighN8A
  | [.reg .a, .atHigh v] => (asmHigh v).map .ldAHighN8
  | [.atHighC, .reg .a] => some .ldHighCA
  | [.reg .a, .atHighC] => some .ldAHighC
  | [.atHLInc, .reg .a] => some .ldAtHLIncA
  | [.atHLDec, .reg .a] => some .ldAtHLDecA
  | [.reg .a, .atHLInc] => some .ldAAtHLInc
  | [.reg .a, .atHLDec] => some .ldAAtHLDec
  | _ => none

/-- `LDH` forces the 2-byte form; its operand may be the whole address (30_encoding.md
rule R128). -/
def asmLdh : List AsmOperand → Option Instr
  | [.atHigh v, .reg .a] => (asmHigh v).map .ldHighN8A
  | [.reg .a, .atHigh v] => (asmHigh v).map .ldAHighN8
  | [.atNum v, .reg .a] => (asmHigh (v - 0xFF00)).map .ldHighN8A
  | [.reg .a, .atNum v] => (asmHigh (v - 0xFF00)).map .ldAHighN8
  | _ => none

/-- `JP` (45_control.md rules R322 to R324). -/
def asmJp : List AsmOperand → Option Instr
  | [.pair .hl] => some .jpHL
  | [.num v] => (asmN16 v).map .jpN16
  | [cc, .num v] => (asmCond cc).bind fun code => (asmN16 v).map (.jpCcN16 code)
  | _ => none

/-- `JR` (45_control.md rules R325 and R326), its operand a target address. -/
def asmJr (here : Word) : List AsmOperand → Option Instr
  | [.num v] => (asmJrTarget here v).map .jrE8
  | [cc, .num v] => (asmCond cc).bind fun code => (asmJrTarget here v).map (.jrCcE8 code)
  | _ => none

/-- `CALL` (45_control.md rules R320 and R321). -/
def asmCall : List AsmOperand → Option Instr
  | [.num v] => (asmN16 v).map .callN16
  | [cc, .num v] => (asmCond cc).bind fun code => (asmN16 v).map (.callCcN16 code)
  | _ => none

/-- `RET` (45_control.md rules R327 and R328). -/
def asmRet : List AsmOperand → Option Instr
  | [] => some .ret
  | [cc] => (asmCond cc).map .retCc
  | _ => none

/-- `PUSH` and `POP` (46_stack.md). -/
def asmStack (pair : R16 → Instr) (af : Instr) : List AsmOperand → Option Instr
  | [.pair p] => some (pair p)
  | [.af] => some af
  | _ => none

/-- `RST vec` (45_control.md rule R330). -/
def asmRst : List AsmOperand → Option Instr
  | [.num v] => (asmVec v).map .rstVec
  | _ => none

/-- A mnemonic with no operands. -/
def asmPlain (i : Instr) : List AsmOperand → Option Instr
  | [] => some i
  | _ => none

/-- The instruction a line at the address `here` means, or nothing where the source's syntax has no
such line. `STOP` assembles with the pad byte 0x00 (30_encoding.md rule R117). -/
def assemble (here : Word) (line : AsmLine) : Option Instr :=
  match line.mnem with
  | .adc => asmAluLine .adcAR8 .adcAAtHL .adcAN8 line.operands
  | .add => asmAdd line.operands
  | .and => asmAluLine .andAR8 .andAAtHL .andAN8 line.operands
  | .bit => asmBit .bitR8 .bitAtHL line.operands
  | .call => asmCall line.operands
  | .ccf => asmPlain .ccf line.operands
  | .cp => asmAluLine .cpAR8 .cpAAtHL .cpAN8 line.operands
  | .cpl => asmPlain .cpl line.operands
  | .daa => asmPlain .daa line.operands
  | .dec => asmCount .decR8 .decAtHL .decR16 .decSP line.operands
  | .di => asmPlain .di line.operands
  | .ei => asmPlain .ei line.operands
  | .halt => asmPlain .halt line.operands
  | .inc => asmCount .incR8 .incAtHL .incR16 .incSP line.operands
  | .jp => asmJp line.operands
  | .jr => asmJr here line.operands
  | .ld => asmLd line.operands
  | .ldh => asmLdh line.operands
  | .nop => asmPlain .nop line.operands
  | .or => asmAluLine .orAR8 .orAAtHL .orAN8 line.operands
  | .pop => asmStack .popR16 .popAF line.operands
  | .push => asmStack .pushR16 .pushAF line.operands
  | .res => asmBit .resR8 .resAtHL line.operands
  | .ret => asmRet line.operands
  | .reti => asmPlain .reti line.operands
  | .rl => asmUnary .rlR8 .rlAtHL line.operands
  | .rla => asmPlain .rla line.operands
  | .rlc => asmUnary .rlcR8 .rlcAtHL line.operands
  | .rlca => asmPlain .rlca line.operands
  | .rr => asmUnary .rrR8 .rrAtHL line.operands
  | .rra => asmPlain .rra line.operands
  | .rrc => asmUnary .rrcR8 .rrcAtHL line.operands
  | .rrca => asmPlain .rrca line.operands
  | .rst => asmRst line.operands
  | .sbc => asmAluLine .sbcAR8 .sbcAAtHL .sbcAN8 line.operands
  | .scf => asmPlain .scf line.operands
  | .set => asmBit .setR8 .setAtHL line.operands
  | .sla => asmUnary .slaR8 .slaAtHL line.operands
  | .sra => asmUnary .sraR8 .sraAtHL line.operands
  | .srl => asmUnary .srlR8 .srlAtHL line.operands
  | .stop => asmPlain (.stop 0x00) line.operands
  | .sub => asmAluLine .subAR8 .subAAtHL .subAN8 line.operands
  | .swap => asmUnary .swapR8 .swapAtHL line.operands
  | .xor => asmAluLine .xorAR8 .xorAAtHL .xorAN8 line.operands

/-! ### The line of an instruction -/

/-- A condition as an operand. -/
def condOperand : Cond → AsmOperand
  | .nz => .nz
  | .z => .z
  | .nc => .nc
  | .c => .reg .c

/-- The target address of a `JR` at `here`, as a number. -/
def jrTarget (here : Word) (e : Byte) : Int := (here + 2 + sext16 e).toNat

/-- The source's heading for an instruction at the address `here`, with its operands; none for the
eleven bytes that encode nothing, and none for a `STOP` whose pad byte the assembler does not emit
(30_encoding.md rules R116 and R117). -/
def disassemble (here : Word) : Instr → Option AsmLine
  | .adcAR8 r => some ⟨.adc, [.reg .a, .reg r]⟩
  | .adcAAtHL => some ⟨.adc, [.reg .a, .atPair .hl]⟩
  | .adcAN8 n => some ⟨.adc, [.reg .a, .num n.toNat]⟩
  | .addAR8 r => some ⟨.add, [.reg .a, .reg r]⟩
  | .addAAtHL => some ⟨.add, [.reg .a, .atPair .hl]⟩
  | .addAN8 n => some ⟨.add, [.reg .a, .num n.toNat]⟩
  | .andAR8 r => some ⟨.and, [.reg .a, .reg r]⟩
  | .andAAtHL => some ⟨.and, [.reg .a, .atPair .hl]⟩
  | .andAN8 n => some ⟨.and, [.reg .a, .num n.toNat]⟩
  | .cpAR8 r => some ⟨.cp, [.reg .a, .reg r]⟩
  | .cpAAtHL => some ⟨.cp, [.reg .a, .atPair .hl]⟩
  | .cpAN8 n => some ⟨.cp, [.reg .a, .num n.toNat]⟩
  | .decR8 r => some ⟨.dec, [.reg r]⟩
  | .decAtHL => some ⟨.dec, [.atPair .hl]⟩
  | .incR8 r => some ⟨.inc, [.reg r]⟩
  | .incAtHL => some ⟨.inc, [.atPair .hl]⟩
  | .orAR8 r => some ⟨.or, [.reg .a, .reg r]⟩
  | .orAAtHL => some ⟨.or, [.reg .a, .atPair .hl]⟩
  | .orAN8 n => some ⟨.or, [.reg .a, .num n.toNat]⟩
  | .sbcAR8 r => some ⟨.sbc, [.reg .a, .reg r]⟩
  | .sbcAAtHL => some ⟨.sbc, [.reg .a, .atPair .hl]⟩
  | .sbcAN8 n => some ⟨.sbc, [.reg .a, .num n.toNat]⟩
  | .subAR8 r => some ⟨.sub, [.reg .a, .reg r]⟩
  | .subAAtHL => some ⟨.sub, [.reg .a, .atPair .hl]⟩
  | .subAN8 n => some ⟨.sub, [.reg .a, .num n.toNat]⟩
  | .xorAR8 r => some ⟨.xor, [.reg .a, .reg r]⟩
  | .xorAAtHL => some ⟨.xor, [.reg .a, .atPair .hl]⟩
  | .xorAN8 n => some ⟨.xor, [.reg .a, .num n.toNat]⟩
  | .addHLR16 p => some ⟨.add, [.pair .hl, .pair p]⟩
  | .addHLSP => some ⟨.add, [.pair .hl, .sp]⟩
  | .addSPE8 e => some ⟨.add, [.sp, .num (signed8 e)]⟩
  | .decR16 p => some ⟨.dec, [.pair p]⟩
  | .decSP => some ⟨.dec, [.sp]⟩
  | .incR16 p => some ⟨.inc, [.pair p]⟩
  | .incSP => some ⟨.inc, [.sp]⟩
  | .bitR8 u r => some ⟨.bit, [.num u.toNat, .reg r]⟩
  | .bitAtHL u => some ⟨.bit, [.num u.toNat, .atPair .hl]⟩
  | .resR8 u r => some ⟨.res, [.num u.toNat, .reg r]⟩
  | .resAtHL u => some ⟨.res, [.num u.toNat, .atPair .hl]⟩
  | .setR8 u r => some ⟨.set, [.num u.toNat, .reg r]⟩
  | .setAtHL u => some ⟨.set, [.num u.toNat, .atPair .hl]⟩
  | .swapR8 r => some ⟨.swap, [.reg r]⟩
  | .swapAtHL => some ⟨.swap, [.atPair .hl]⟩
  | .rlR8 r => some ⟨.rl, [.reg r]⟩
  | .rlAtHL => some ⟨.rl, [.atPair .hl]⟩
  | .rla => some ⟨.rla, []⟩
  | .rlcR8 r => some ⟨.rlc, [.reg r]⟩
  | .rlcAtHL => some ⟨.rlc, [.atPair .hl]⟩
  | .rlca => some ⟨.rlca, []⟩
  | .rrR8 r => some ⟨.rr, [.reg r]⟩
  | .rrAtHL => some ⟨.rr, [.atPair .hl]⟩
  | .rra => some ⟨.rra, []⟩
  | .rrcR8 r => some ⟨.rrc, [.reg r]⟩
  | .rrcAtHL => some ⟨.rrc, [.atPair .hl]⟩
  | .rrca => some ⟨.rrca, []⟩
  | .slaR8 r => some ⟨.sla, [.reg r]⟩
  | .slaAtHL => some ⟨.sla, [.atPair .hl]⟩
  | .sraR8 r => some ⟨.sra, [.reg r]⟩
  | .sraAtHL => some ⟨.sra, [.atPair .hl]⟩
  | .srlR8 r => some ⟨.srl, [.reg r]⟩
  | .srlAtHL => some ⟨.srl, [.atPair .hl]⟩
  | .ldR8R8 dst src => some ⟨.ld, [.reg dst, .reg src]⟩
  | .ldR8N8 r n => some ⟨.ld, [.reg r, .num n.toNat]⟩
  | .ldR16N16 p n => some ⟨.ld, [.pair p, .num n.toNat]⟩
  | .ldAtHLR8 r => some ⟨.ld, [.atPair .hl, .reg r]⟩
  | .ldAtHLN8 n => some ⟨.ld, [.atPair .hl, .num n.toNat]⟩
  | .ldR8AtHL r => some ⟨.ld, [.reg r, .atPair .hl]⟩
  | .ldAtR16A p => some ⟨.ld, [.atPair p, .reg .a]⟩
  | .ldAtN16A n => some ⟨.ld, [.atNum n.toNat, .reg .a]⟩
  | .ldHighN8A n => some ⟨.ld, [.atHigh n.toNat, .reg .a]⟩
  | .ldHighCA => some ⟨.ld, [.atHighC, .reg .a]⟩
  | .ldAAtR16 p => some ⟨.ld, [.reg .a, .atPair p]⟩
  | .ldAAtN16 n => some ⟨.ld, [.reg .a, .atNum n.toNat]⟩
  | .ldAHighN8 n => some ⟨.ld, [.reg .a, .atHigh n.toNat]⟩
  | .ldAHighC => some ⟨.ld, [.reg .a, .atHighC]⟩
  | .ldAtHLIncA => some ⟨.ld, [.atHLInc, .reg .a]⟩
  | .ldAtHLDecA => some ⟨.ld, [.atHLDec, .reg .a]⟩
  | .ldAAtHLInc => some ⟨.ld, [.reg .a, .atHLInc]⟩
  | .ldAAtHLDec => some ⟨.ld, [.reg .a, .atHLDec]⟩
  | .ldSPN16 n => some ⟨.ld, [.sp, .num n.toNat]⟩
  | .ldAtN16SP n => some ⟨.ld, [.atNum n.toNat, .sp]⟩
  | .ldHLSPE8 e => some ⟨.ld, [.pair .hl, .spPlus (signed8 e)]⟩
  | .ldSPHL => some ⟨.ld, [.sp, .pair .hl]⟩
  | .callN16 n => some ⟨.call, [.num n.toNat]⟩
  | .callCcN16 cc n => some ⟨.call, [condOperand cc, .num n.toNat]⟩
  | .jpN16 n => some ⟨.jp, [.num n.toNat]⟩
  | .jpCcN16 cc n => some ⟨.jp, [condOperand cc, .num n.toNat]⟩
  | .jpHL => some ⟨.jp, [.pair .hl]⟩
  | .jrE8 e => some ⟨.jr, [.num (jrTarget here e)]⟩
  | .jrCcE8 cc e => some ⟨.jr, [condOperand cc, .num (jrTarget here e)]⟩
  | .ret => some ⟨.ret, []⟩
  | .retCc cc => some ⟨.ret, [condOperand cc]⟩
  | .reti => some ⟨.reti, []⟩
  | .rstVec vec => some ⟨.rst, [.num vec.toNat]⟩
  | .popAF => some ⟨.pop, [.af]⟩
  | .popR16 p => some ⟨.pop, [.pair p]⟩
  | .pushAF => some ⟨.push, [.af]⟩
  | .pushR16 p => some ⟨.push, [.pair p]⟩
  | .ccf => some ⟨.ccf, []⟩
  | .cpl => some ⟨.cpl, []⟩
  | .daa => some ⟨.daa, []⟩
  | .di => some ⟨.di, []⟩
  | .ei => some ⟨.ei, []⟩
  | .halt => some ⟨.halt, []⟩
  | .nop => some ⟨.nop, []⟩
  | .scf => some ⟨.scf, []⟩
  | .stop pad => if pad = 0x00 then some ⟨.stop, []⟩ else none
  | .illegalD3 | .illegalDB | .illegalDD | .illegalE3 | .illegalE4 | .illegalEB | .illegalEC
  | .illegalED | .illegalF4 | .illegalFC | .illegalFD => none

/-! ### The text of a line (30_encoding.md rule R126) -/

/-- A mnemonic in capitals, as the source shows it. -/
def mnemText : Mnem → String
  | .adc => "ADC" | .add => "ADD" | .and => "AND" | .bit => "BIT" | .call => "CALL"
  | .ccf => "CCF" | .cp => "CP" | .cpl => "CPL" | .daa => "DAA" | .dec => "DEC" | .di => "DI"
  | .ei => "EI" | .halt => "HALT" | .inc => "INC" | .jp => "JP" | .jr => "JR" | .ld => "LD"
  | .ldh => "LDH" | .nop => "NOP" | .or => "OR" | .pop => "POP" | .push => "PUSH"
  | .res => "RES" | .ret => "RET" | .reti => "RETI" | .rl => "RL" | .rla => "RLA"
  | .rlc => "RLC" | .rlca => "RLCA" | .rr => "RR" | .rra => "RRA" | .rrc => "RRC"
  | .rrca => "RRCA" | .rst => "RST" | .sbc => "SBC" | .scf => "SCF" | .set => "SET"
  | .sla => "SLA" | .sra => "SRA" | .srl => "SRL" | .stop => "STOP" | .sub => "SUB"
  | .swap => "SWAP" | .xor => "XOR"

/-- A register's name. -/
def r8Text : R8 → String
  | .b => "B" | .c => "C" | .d => "D" | .e => "E" | .h => "H" | .l => "L" | .a => "A"

/-- A pair's name. -/
def r16Text : R16 → String
  | .bc => "BC" | .de => "DE" | .hl => "HL"

/-- An operand: memory operands in square brackets. Every constant is written in decimal, inside
`[$FF00+n8]` too: the base is the model's (DESIGN CHOICE, log entry 13). -/
def operandText : AsmOperand → String
  | .reg r => r8Text r
  | .pair p => r16Text p
  | .af => "AF"
  | .sp => "SP"
  | .nz => "NZ"
  | .z => "Z"
  | .nc => "NC"
  | .num v => toString v
  | .spPlus v => if v < 0 then "SP" ++ toString v else "SP+" ++ toString v
  | .atPair p => "[" ++ r16Text p ++ "]"
  | .atHLInc => "[HL+]"
  | .atHLDec => "[HL-]"
  | .atNum v => "[" ++ toString v ++ "]"
  | .atHigh v => "[$FF00+" ++ toString v ++ "]"
  | .atHighC => "[$FF00+C]"

/-- A line: the mnemonic, then the operands separated by commas. -/
def lineText (line : AsmLine) : String :=
  match line.operands with
  | [] => mnemText line.mnem
  | ops => mnemText line.mnem ++ " " ++ String.intercalate "," (ops.map operandText)

end Sys2Proof.Machine
end

