-- ==== Sys2Proof/Safety.lean ====
section
/-! DEFINITION. What counts as a run and as a safe one, in the terms the statements use: the states a
run can start in and reach (spec 60_exceptions.md rule R420), the invariant of the machine, the stuck
states (rule R431), how a run ends (70_reset_and_hazards.md rule R455), and what an instruction
leaves unchanged. -/

namespace Sys2Proof.Machine

/-! ### Runs -/

/-- The states in which a run may begin: the two instances of `ResetState` (10_state.md rule R47),
with every value of what the core leaves unspecified, for any parameters and device state, over any
memory in which `IE` is 0x00. -/
def Initial (s : State) : Prop :=
  (∃ params u mem devices, s = State.coreReset params u mem devices ∧ Memory.wf mem ∧
      memGet mem 0xFFFF = 0x00) ∨
    ∃ params mem devices, s = State.dmgEntry params mem devices ∧ Memory.wf mem ∧
      memGet mem 0xFFFF = 0x00

/-- A run: an initial state, then any interleaving of steps and of the environment moves that the
platform makes (60_exceptions.md rules R403 and R420); on flat RAM these change nothing. -/
inductive Reachable : State → Prop where
  | init {s : State} (h : Initial s) : Reachable s
  | move {s : State} (requests : Byte) (h : Reachable s) : Reachable (environmentMove requests s)
  | change {s : State} (kind : Nat) (h : Reachable s) : Reachable (deviceMove kind s)
  | step {s t : State} (h : Reachable s) (hstep : step s = .next t) : Reachable t

/-- The invariant of the machine: memory is in canonical form, and `halt_bug` is set only under the
policy `emulate`, in a machine that runs, with no `EI` waiting (70_reset_and_hazards.md rule R461,
60_exceptions.md rule R420). -/
def Inv (s : State) : Prop :=
  Memory.wf s.mem ∧
    (s.haltBug = true →
      s.params.haltBugPolicy = .emulate ∧ s.mode = .running ∧ s.eiPending = false)

/-! ### Stuck states and the end of a run -/

/-- `Halted` and stuck (60_exceptions.md rule R431): with no source enabled, or with nothing pending on
a platform that never sets `IF`. -/
abbrev HaltedForEver (s : State) : Prop :=
  s.mode = .halted ∧
    (storedByte s ieAddr &&& 0x1F = 0 ∨ s.params.platform.raises = false ∧ pending s = 0)

/-- A stuck state (60_exceptions.md rule R431): `Stopped`, or `Halted` for ever. -/
abbrev Stuck (s : State) : Prop := s.mode = .stopped ∨ HaltedForEver s

/-- How a run ends (70_reset_and_hazards.md rule R455). -/
inductive RunEnd where
  /-- (a) `mode` is `Stopped`. -/
  | stopped (s : State)
  /-- (b) `mode` is `Halted` and stuck. -/
  | haltedForever (s : State)
  /-- (c) `PC` is the stop address, before the instruction there. -/
  | stopAddress (s : State)
  /-- (d) a fault. -/
  | faulted (r : Fault)
  /-- A refusal; no step of this model answers one. -/
  | refused (r : Refusal)
  /-- The run goes on after the steps given. -/
  | unfinished (s : State)
  deriving DecidableEq, Repr

/-- A run of at most `fuel` steps with no environment move between them, ended as
70_reset_and_hazards.md rule R455 says. Where a state meets several of its ends, the first of them in
the rule's order (a), (b), (c) is the one reported: the rule gives none (DESIGN CHOICE, log
entry 17). -/
def runUntil (stopAt : Option Word) : Nat → State → RunEnd
  | 0, s => .unfinished s
  | fuel + 1, s =>
    if s.mode = .stopped then .stopped s
    else if HaltedForEver s then .haltedForever s
    else if stopAt = some s.pc then .stopAddress s
    else
      match step s with
      | .next t => runUntil stopAt fuel t
      | .fault r => .faulted r
      | .refused r => .refused r

/-- A number of steps in a row, ended by the first fault or refusal. -/
def steps : Nat → State → Answer
  | 0, s => .next s
  | k + 1, s =>
    match step s with
    | .next t => steps k t
    | .fault r => .fault r
    | .refused r => .refused r

/-! ### What an instruction leaves unchanged -/

/-- Every 8-bit register but those listed. -/
def KeepsR8 (written : List R8) (s t : State) : Prop :=
  ∀ r, r ∉ written → getR8 t r = getR8 s r

/-- `IME`, `ei_pending`, `mode` and `halt_bug`. -/
def KeepsControl (s t : State) : Prop :=
  t.ime = s.ime ∧ t.eiPending = s.eiPending ∧ t.mode = s.mode ∧ t.haltBug = s.haltBug

/-- What the devices have seen after some accesses, in order. -/
def devicesAfter (p : Platform) : List DeviceEvent → List DeviceEvent → List DeviceEvent
  | seen, [] => seen
  | seen, access :: rest => devicesAfter p (p.note seen access) rest

/-- One of the accesses stores a byte at an address: it is a write there, and the cell is RAM. -/
def StoresAt (accesses : List DeviceEvent) (s : State) (a : Word) : Prop :=
  (kindAt s a).isRam = true ∧ ∃ v, DeviceEvent.write a v ∈ accesses

/-- The accesses made are those listed, in that order, and no others: every stored byte but those they
store is as before, the devices have seen those that reach them, and the parameters are as before. -/
def Accessed (accesses : List DeviceEvent) (s t : State) : Prop :=
  (∀ a, ¬ StoresAt accesses s a → storedByte t a = storedByte s a) ∧
    t.devices = devicesAfter s.params.platform s.devices accesses ∧ t.params = s.params

/-- The 8-bit registers a pair is made of (10_state.md rule R35). -/
def halves : R16 → List R8
  | .bc => [.b, .c]
  | .de => [.d, .e]
  | .hl => [.h, .l]

/-- Nothing but the 8-bit registers listed and the flags, with the accesses listed: `SP`, `PC`, the
control state and every byte they do not store are as before. -/
def OnlyR8 (written : List R8) (accesses : List DeviceEvent) (s t : State) : Prop :=
  KeepsR8 written s t ∧ t.sp = s.sp ∧ t.pc = s.pc ∧ KeepsControl s t ∧ Accessed accesses s t

/-- Nothing but `PC`, `SP` and what the accesses listed store: every register and flag is as
before. -/
def OnlyStack (accesses : List DeviceEvent) (s t : State) : Prop :=
  KeepsR8 [] s t ∧ t.f = s.f ∧ KeepsControl s t ∧ Accessed accesses s t

end Sys2Proof.Machine
end

