-- ==== Sys2Proof/Certificates/Slice0/Obligations.lean ====
section
/-! DEFINITION. The statements for the provers, each a `Prop`, with the few words they are written in.
A meaning runs on the state after its bytes are fetched, so `s.pc` in a statement about `exec` is the
address of the following instruction (spec 10_state.md rule R37). -/

open Sys2Proof Sys2Proof.Machine

/-! ### Words of the statements -/

namespace Sys2Proof.Claims

/-- `exec i s` answers a next state, and that state is as `after` says. -/
def Completes (i : Instr) (s : State) (after : State → Prop) : Prop :=
  ∃ t, exec i s = .next t ∧ after t

/-- When each flag is 1. -/
def FlagsAre (f : Flags) (z n h c : Prop) : Prop :=
  (f.z = true ↔ z) ∧ (f.n = true ↔ n) ∧ (f.h = true ↔ h) ∧ (f.c = true ↔ c)

/-- The right operand of an 8-bit operation on `A` (40_alu8.md rule R181). -/
inductive Rhs where
  | reg (r : R8)
  | atHL
  | imm (n : Byte)
  deriving DecidableEq, Repr

/-- The value of the right operand (40_alu8.md rule R181). -/
def rhsValue (s : State) : Rhs → Byte
  | .reg r => getR8 s r
  | .atHL => peek s (getHL s)
  | .imm n => n

/-- The accesses that reading the right operand makes (20_memory.md rule R75). -/
def rhsAccesses (s : State) : Rhs → List DeviceEvent
  | .atHL => [.read (getHL s)]
  | .reg _ | .imm _ => []

/-- `ADD A,x`. -/
def addOf : Rhs → Instr
  | .reg r => .addAR8 r
  | .atHL => .addAAtHL
  | .imm n => .addAN8 n

/-- `ADC A,x`. -/
def adcOf : Rhs → Instr
  | .reg r => .adcAR8 r
  | .atHL => .adcAAtHL
  | .imm n => .adcAN8 n

/-- `SUB A,x`. -/
def subOf : Rhs → Instr
  | .reg r => .subAR8 r
  | .atHL => .subAAtHL
  | .imm n => .subAN8 n

/-- `SBC A,x`. -/
def sbcOf : Rhs → Instr
  | .reg r => .sbcAR8 r
  | .atHL => .sbcAAtHL
  | .imm n => .sbcAN8 n

/-- `CP A,x`. -/
def cpOf : Rhs → Instr
  | .reg r => .cpAR8 r
  | .atHL => .cpAAtHL
  | .imm n => .cpAN8 n

/-- `AND A,x`. -/
def andOf : Rhs → Instr
  | .reg r => .andAR8 r
  | .atHL => .andAAtHL
  | .imm n => .andAN8 n

/-- `OR A,x`. -/
def orOf : Rhs → Instr
  | .reg r => .orAR8 r
  | .atHL => .orAAtHL
  | .imm n => .orAN8 n

/-- `XOR A,x`. -/
def xorOf : Rhs → Instr
  | .reg r => .xorAR8 r
  | .atHL => .xorAAtHL
  | .imm n => .xorAN8 n

/-- The seven rotates and shifts of 43_rotate_shift.md rule R240. -/
inductive Rot where
  | rl | rlc | rr | rrc | sla | sra | srl
  deriving DecidableEq, Repr

/-- The form on a register. -/
def rotR8 : Rot → R8 → Instr
  | .rl => .rlR8
  | .rlc => .rlcR8
  | .rr => .rrR8
  | .rrc => .rrcR8
  | .sla => .slaR8
  | .sra => .sraR8
  | .srl => .srlR8

/-- The form on the byte at `HL`. -/
def rotAtHL : Rot → Instr
  | .rl => .rlAtHL
  | .rlc => .rlcAtHL
  | .rr => .rrAtHL
  | .rrc => .rrcAtHL
  | .sla => .slaAtHL
  | .sra => .sraAtHL
  | .srl => .srlAtHL

/-- The result `r` for the value `v` and the old carry `c`, as numbers (rule R240). -/
def rotResult (v c : Nat) : Rot → Nat
  | .rl => (2 * v + c) % 256
  | .rlc => (2 * v + v / 128) % 256
  | .rr => 128 * c + v / 2
  | .rrc => 128 * (v % 2) + v / 2
  | .sla => 2 * v % 256
  | .sra => 128 * (v / 128) + v / 2
  | .srl => v / 2

/-- The carry-out `k`: bit 7 of `v` when it moves left, bit 0 when it moves right (rule R240). -/
def rotCarry (v : Nat) : Rot → Nat
  | .rl | .rlc | .sla => v / 128
  | .rr | .rrc | .sra | .srl => v % 2

/-- `A` loaded from an address: no flag and nothing else changes. -/
def LoadsA (x : Word) (s t : State) : Prop :=
  t.a = peek s x ∧ t.f = s.f ∧ OnlyR8 [.a] [.read x] s t

/-- A RAM cell holds a byte. -/
def Holds (s t : State) (x : Word) (v : Byte) : Prop :=
  (kindAt s x).isRam = true → storedByte t x = v

/-- A byte written to an address: nothing else changes. -/
def Stores (x : Word) (v : Byte) (s t : State) : Prop :=
  Holds s t x v ∧ t.f = s.f ∧ OnlyR8 [] [.write x v] s t

/-- The byte at `HL` read, then a byte written there: nothing else but the flags changes. -/
def ModifiesAtHL (v : Byte) (s t : State) : Prop :=
  Holds s t (getHL s) v ∧ OnlyR8 [] [.read (getHL s), .write (getHL s) v] s t

/-- Two bytes pushed, the high one first and at the higher address: nothing else but `PC` changes. -/
def Pushes (high low : Byte) (s t : State) : Prop :=
  t.sp = s.sp - 2 ∧ Holds s t (s.sp - 1) high ∧ Holds s t (s.sp - 2) low ∧
    OnlyStack [.write (s.sp - 1) high, .write (s.sp - 2) low] s t

/-- A call: the return address on the stack and control at the target. -/
def Calls (target : Word) (s t : State) : Prop :=
  t.pc = target ∧ Pushes (hiByte s.pc) (loByte s.pc) s t

/-- The word at `SP`: the low byte, then the high one as it reads after that. -/
def wordAtSP (s : State) : Nat :=
  256 * (peek (memRead s s.sp).2 (s.sp + 1)).toNat + (peek s s.sp).toNat

/-- A return: `PC` popped. -/
def Returns (s t : State) : Prop := t.pc.toNat = wordAtSP s ∧ t.sp = s.sp + 2

/-- The packed BCD byte of a number below 100. -/
def bcd (n : Nat) : Nat := 16 * (n / 10) + n % 10

/-- The eleven bytes of 30_encoding.md rule R116, each with the term that names it. -/
def illegalRows : List (Byte × Instr) :=
  [(0xD3, .illegalD3), (0xDB, .illegalDB), (0xDD, .illegalDD), (0xE3, .illegalE3),
   (0xE4, .illegalE4), (0xEB, .illegalEB), (0xEC, .illegalEC), (0xED, .illegalED),
   (0xF4, .illegalF4), (0xFC, .illegalFC), (0xFD, .illegalFD)]

/-- What an instruction does with a flag (10_state.md rule R49). -/
inductive Effect where
  /-- `-`: unchanged. -/
  | kept
  /-- `0`. -/
  | zero
  /-- `1`. -/
  | one
  /-- `*`: computed as the instruction's own rule says. -/
  | computed
  deriving DecidableEq, Repr

/-- A flag before and after is as the effect says. -/
def Effect.Holds (before after : Bool) : Effect → Prop
  | .kept => after = before
  | .zero => after = false
  | .one => after = true
  | .computed => True

/-- The table of 10_state.md rule R49: the effects on `Z`, `N`, `H`, `C`. -/
def flagRow : Instr → Effect × Effect × Effect × Effect
  | .adcAR8 _ | .adcAAtHL | .adcAN8 _ | .addAR8 _ | .addAAtHL | .addAN8 _ =>
    (.computed, .zero, .computed, .computed)
  | .andAR8 _ | .andAAtHL | .andAN8 _ => (.computed, .zero, .one, .zero)
  | .cpAR8 _ | .cpAAtHL | .cpAN8 _ | .sbcAR8 _ | .sbcAAtHL | .sbcAN8 _ | .subAR8 _ | .subAAtHL
  | .subAN8 _ => (.computed, .one, .computed, .computed)
  | .decR8 _ | .decAtHL => (.computed, .one, .computed, .kept)
  | .incR8 _ | .incAtHL => (.computed, .zero, .computed, .kept)
  | .orAR8 _ | .orAAtHL | .orAN8 _ | .xorAR8 _ | .xorAAtHL | .xorAN8 _ =>
    (.computed, .zero, .zero, .zero)
  | .addHLR16 _ | .addHLSP => (.kept, .zero, .computed, .computed)
  | .addSPE8 _ | .ldHLSPE8 _ => (.zero, .zero, .computed, .computed)
  | .bitR8 _ _ | .bitAtHL _ => (.computed, .zero, .one, .kept)
  | .swapR8 _ | .swapAtHL => (.computed, .zero, .zero, .zero)
  | .rlR8 _ | .rlAtHL | .rlcR8 _ | .rlcAtHL | .rrR8 _ | .rrAtHL | .rrcR8 _ | .rrcAtHL | .slaR8 _
  | .slaAtHL | .sraR8 _ | .sraAtHL | .srlR8 _ | .srlAtHL => (.computed, .zero, .zero, .computed)
  | .rla | .rlca | .rra | .rrca => (.zero, .zero, .zero, .computed)
  | .ccf => (.kept, .zero, .zero, .computed)
  | .cpl => (.kept, .one, .one, .kept)
  | .daa => (.computed, .kept, .zero, .computed)
  | .scf => (.kept, .zero, .zero, .one)
  | .popAF => (.computed, .computed, .computed, .computed)
  | .incR16 _ | .incSP | .decR16 _ | .decSP | .resR8 _ _ | .resAtHL _ | .setR8 _ _ | .setAtHL _
  | .ldR8R8 _ _ | .ldR8N8 _ _ | .ldR16N16 _ _ | .ldAtHLR8 _ | .ldAtHLN8 _ | .ldR8AtHL _
  | .ldAtR16A _ | .ldAtN16A _ | .ldHighN8A _ | .ldHighCA | .ldAAtR16 _ | .ldAAtN16 _
  | .ldAHighN8 _ | .ldAHighC | .ldAtHLIncA | .ldAtHLDecA | .ldAAtHLInc | .ldAAtHLDec | .ldSPN16 _
  | .ldAtN16SP _ | .ldSPHL | .pushAF | .pushR16 _ | .popR16 _ | .callN16 _ | .callCcN16 _ _
  | .jpN16 _ | .jpCcN16 _ _ | .jpHL | .jrE8 _ | .jrCcE8 _ _ | .ret | .retCc _ | .reti | .rstVec _
  | .di | .ei | .halt | .nop | .stop _ | .illegalD3 | .illegalDB | .illegalDD | .illegalE3
  | .illegalE4 | .illegalEB | .illegalEC | .illegalED | .illegalF4 | .illegalFC | .illegalFD =>
    (.kept, .kept, .kept, .kept)

/-- The control transfers of 45_control.md. -/
def isTransfer : Instr → Bool
  | .callN16 _ | .callCcN16 _ _ | .jpN16 _ | .jpCcN16 _ _ | .jpHL | .jrE8 _ | .jrCcE8 _ _ | .ret
  | .retCc _ | .reti | .rstVec _ => true
  | _ => false

/-- The bytes at some addresses, read in that order, and the state after the reads. -/
def readAll : List Word → State → List Byte × State
  | [], s => ([], s)
  | x :: rest, s =>
    ((memRead s x).1 :: (readAll rest (memRead s x).2).1, (readAll rest (memRead s x).2).2)

/-- Where the bytes of an instruction at `PC` are. -/
def codeAt (pc : Word) : List Word := [pc, pc + 1, pc + 2]

/-- The end of an instruction's step (60_exceptions.md rule R420, the last three lines). -/
def afterInstr (s : State) : Answer → Answer
  | .next t =>
    .next (if s.eiPending = true ∧ t.eiPending = true
      then { t with ime := true, eiPending := false } else t)
  | .fault r => .fault r
  | .refused r => .refused r

/-- The rounds of one register operation, `n` times. -/
def repeated (i : Instr) : Nat → State → Answer
  | 0, s => .next s
  | n + 1, s =>
    match exec i s with
    | .next t => repeated i n t
    | other => other

end Sys2Proof.Claims

open Sys2Proof.Claims

/-! ### Encoding -/

/-- Decoding the encoding of a well-formed instruction gives it back, with the bytes after it
(30_encoding.md rules R100 to R119). -/
def Obligations.EncodeThenDecode : Prop :=
  ∀ (i : Instr) (rest : List Byte),
    i.WellFormed = true → decode (encode i ++ rest) = .ok (i, rest)

/-- What the decoder reads is well-formed, and the bytes it read are the encoding of what it answers:
no two encodings of one instruction (30_encoding.md rule R118). -/
def Obligations.DecodeThenEncode : Prop :=
  ∀ (bytes rest : List Byte) (i : Instr),
    decode bytes = .ok (i, rest) → i.WellFormed = true ∧ bytes = encode i ++ rest

/-- Three bytes always decode: to an instruction of 1, 2 or 3 bytes, which is a legal one exactly when
the first byte is none of the eleven (30_encoding.md rules R100, R103 and R116). -/
def Obligations.DecodeIsTotal : Prop :=
  ∀ (b0 b1 b2 : Byte) (rest : List Byte), ∃ i,
    decode (b0 :: b1 :: b2 :: rest) = .ok (i, (b0 :: b1 :: b2 :: rest).drop (instrBytes i)) ∧
      1 ≤ instrBytes i ∧ instrBytes i ≤ 3 ∧ (b0 = 0xCB → instrBytes i = 2) ∧
      (i.isLegal = false ↔ b0 ∈ illegalRows.map Prod.fst)

/-- A few words written out from their encodings decode to the instructions they stand for
(30_encoding.md rules R114 and R115). -/
def Obligations.DecodedWords : Prop :=
  decode [0x88] = .ok (.adcAR8 .b, []) ∧
    decode [0x08, 0xCD, 0xAB] = .ok (.ldAtN16SP 0xABCD, []) ∧
    decode [0xCB, 0x9E] = .ok (.resAtHL 3, []) ∧
    decode [0x76] = .ok (.halt, []) ∧
    decode [0x3A] = .ok (.ldAAtHLDec, []) ∧
    decode [0xDC, 0x00, 0x02] = .ok (.callCcN16 .c 0x0200, []) ∧
    decode [0xEF] = .ok (.rstVec 0x28, []) ∧
    decode [0x10, 0x5A] = .ok (.stop 0x5A, []) ∧
    decode [0xDD] = .ok (.illegalDD, [])

/-- The line of an instruction assembles to that instruction, at every address; and every legal
instruction has a line, but for a `STOP` with a pad byte other than 0x00 (30_encoding.md rules R117 and
R126 to R130; what the syntax leaves to the tool is log entry 13). -/
def Obligations.DisassembleThenAssemble : Prop :=
  ∀ (here : Word) (i : Instr), i.WellFormed = true →
    (∀ line, disassemble here i = some line → assemble here line = some i) ∧
      (i.isLegal = true → (∀ pad, i = .stop pad → pad = 0x00) →
        ∃ line, disassemble here i = some line)

/-! ### The step -/

/-- A step runs the decoded instruction: a machine that is running, or halted with something pending,
that takes no interrupt and has no double fetch before it, reads the bytes of the instruction at `PC`
and no others, and runs the instruction they decode to on the state awake with `PC` past it; and at
the end it applies the `EI` of the step before (60_exceptions.md rule R420). -/
def Obligations.StepRunsDecoded : Prop :=
  ∀ (s : State) (i : Instr) (rest : List Byte),
    s.mode ≠ .stopped → (s.mode = .halted → pending s ≠ 0) →
    ¬ (s.ime = true ∧ pending s ≠ 0) → s.haltBug = false →
    decode (readAll (codeAt s.pc) s).1 = .ok (i, rest) →
    step s = afterInstr s
      (exec i { (readAll ((codeAt s.pc).take (encode i).length) s).2 with
        mode := .running, pc := s.pc + BitVec.ofNat 16 (encode i).length })

/-- The double fetch: after a `HALT` met its bug, the instruction is read from the byte at `PC`, then
that byte again, then the next one, and `PC` ends one byte short (70_reset_and_hazards.md rule R461,
policy `emulate`). -/
def Obligations.HaltBugFetchesTwice : Prop :=
  ∀ (s : State) (i : Instr) (rest : List Byte),
    s.mode = .running → ¬ (s.ime = true ∧ pending s ≠ 0) → s.haltBug = true →
    decode (readAll [s.pc, s.pc, s.pc + 1] s).1 = .ok (i, rest) →
    step s = afterInstr s
      (exec i { (readAll ([s.pc, s.pc, s.pc + 1].take (encode i).length) s).2 with
        haltBug := false, pc := s.pc + BitVec.ofNat 16 ((encode i).length - 1) })

/-- Every step ends in a next state, but for two faults: an illegal byte, and, under the policy `fault`
only, a `HALT` with `IME = 0` and an enabled request pending (60_exceptions.md rules R400 and R401). The
state a fault holds is the model's choice (DESIGN CHOICE, log entry 10): rule R401 says `PC` past the
byte and nothing else changed, and the model takes with it what the step has done before, by
60_exceptions.md rule R420 and 70_reset_and_hazards.md rule R461: the machine awake, the byte read once,
and, in a double fetch, `halt_bug` used up and `PC` still at the byte. -/
def Obligations.StepFaultCases : Prop :=
  ∀ s : State,
    let fetched := { (memRead s s.pc).2 with
      mode := .running, haltBug := false, pc := if s.haltBug then s.pc else s.pc + 1 }
    (∃ t, step s = .next t) ∨
      (peek s s.pc ∈ illegalRows.map Prod.fst ∧
        step s = .fault (.illegalOpcode (peek s s.pc) fetched)) ∨
      (peek s s.pc = 0x76 ∧ s.params.haltBugPolicy = .fault ∧ s.ime = false ∧ pending s ≠ 0 ∧
        step s = .fault (.haltBug fetched))

/-- Every step keeps the invariant (canonical memory, and `halt_bug` only in a machine that runs under
the policy `emulate` with no `EI` waiting: 70_reset_and_hazards.md rule R461) and the parameters of the
machine (00_scope.md rule R6). -/
def Obligations.InvKept : Prop :=
  ∀ s t : State, Inv s → step s = .next t → Inv t ∧ t.params = s.params

/-- The invariant holds after reset, in every initial state, and is kept by every environment
move. -/
def Obligations.InvAtReset : Prop :=
  Inv State.reset ∧ (∀ s, Initial s → Inv s) ∧
    ∀ (s : State) (requests : Byte) (kind : Nat), Inv s →
      Inv (environmentMove requests s) ∧ Inv (deviceMove kind s)

/-- In every run memory keeps its canonical form, and no interrupt is dispatched after the step that
sets `halt_bug`, whatever the environment does (70_reset_and_hazards.md rule R461: since `IME = 0`);
but where an `EI` came directly before the `HALT`, `IME` is 1 after that step, an interrupt is
dispatched next, and `halt_bug` stays set (90_conflicts.md C11; that the dispatch leaves it is the
model's reading, log entry 6). -/
def Obligations.NoDispatchWhileHaltBug : Prop :=
  ∀ s : State, Reachable s →
    Memory.wf s.mem ∧ ∀ t, s.haltBug = false → step s = .next t → t.haltBug = true →
      (s.eiPending = false → ∀ (requests : Byte) (kind : Nat),
        let u := deviceMove kind (environmentMove requests t)
        ¬ ∃ src, step u = .next (dispatch src u)) ∧
      (s.eiPending = true →
        ∃ src, step t = .next (dispatch src t) ∧ (dispatch src t).haltBug = true)

/-! ### Interrupts -/

/-- Interrupt dispatch (60_exceptions.md rule R410), of the lowest pending source (rule R405), by a
machine that is not stopped: what is saved and where, what changes, and that nothing else does; and
its five cycles. That it leaves a `halt_bug` that is set is the model's reading, since rule R461 of
70_reset_and_hazards.md says that this cannot occur (DEDUCED, log entry 6). -/
def Obligations.DispatchEffect : Prop :=
  dispatchCycles = 5 ∧ ∀ s : State, s.mode ≠ .stopped → s.ime = true → pending s ≠ 0 →
    ∃ (src : Source) (t : State), step s = .next t ∧
      (pending s).getLsbD src.index = true ∧
      (∀ m, m < src.index → (pending s).getLsbD m = false) ∧
      t.pc.toNat = 0x40 + 8 * src.index ∧ t.sp = s.sp - 2 ∧
      t.ime = false ∧ t.eiPending = false ∧ t.mode = .running ∧ t.haltBug = s.haltBug ∧
      KeepsR8 [] s t ∧ t.f = s.f ∧ t.params = s.params ∧
      let accesses := [.write (s.sp - 1) (hiByte s.pc), .write (s.sp - 2) (loByte s.pc)]
      t.devices = devicesAfter s.params.platform s.devices accesses ∧
      Holds s t (s.sp - 1) (hiByte s.pc) ∧ Holds s t (s.sp - 2) (loByte s.pc) ∧
      ∀ x, ¬ StoresAt accesses s x → ∀ k, k < 8 →
        (storedByte t x).getLsbD k =
          ((storedByte s x).getLsbD k && !decide (x = 0xFF0F ∧ k = src.index))

/-- A handler of one `RETI`, on a stack in RAM, returns to the instruction that was not yet executed,
with the stack pointer and every register as they were and interrupts enabled (60_exceptions.md
rule R412; that a dispatch leaves a `halt_bug` that is set is log entry 6). -/
def Obligations.RetiUndoesDispatch : Prop :=
  ∀ (src : Source) (s : State),
    kindAt s (s.sp - 1) = .ram 0x00 → kindAt s (s.sp - 2) = .ram 0x00 →
    Completes .reti (dispatch src s) fun t =>
      t.pc = s.pc ∧ t.sp = s.sp ∧ t.ime = true ∧ t.eiPending = false ∧ t.mode = s.mode ∧
        t.haltBug = s.haltBug ∧ t.f = s.f ∧ KeepsR8 [] s t ∧ t.devices = s.devices ∧
        t.params = s.params ∧
        ∀ x, x ∉ [s.sp - 1, s.sp - 2, 0xFF0F] → storedByte t x = storedByte s x

/-- The pending set is `IE & IF & 0x1F` (60_exceptions.md rule R404): bits 7 to 5 make nothing
pending, and the stored bytes make pending what the platform's reads of them would (that the platform's
part in the two bytes is their bits 7 to 5 alone is DEDUCED, log entry 12). -/
def Obligations.PendingSet : Prop :=
  ∀ (s : State) (n : Nat),
    ((pending s).getLsbD n = true ↔
      n < 5 ∧ (storedByte s 0xFFFF).getLsbD n = true ∧ (storedByte s 0xFF0F).getLsbD n = true) ∧
    ((pending s).getLsbD n = true ↔
      n < 5 ∧ (peek s 0xFFFF).getLsbD n = true ∧ (peek s 0xFF0F).getLsbD n = true)

/-- The five sources with their bits, masks and vectors, and the environment move, which sets bits
4 to 0 of `IF`, never clears one, and changes nothing else but the state of the devices; a platform
that makes no such move, as flat RAM is, changes nothing (60_exceptions.md rule R403, 20_memory.md
rule R81). -/
def Obligations.SourcesAndEnvironment : Prop :=
  ([Source.vblank, .stat, .timer, .serial, .joypad].map fun src =>
      (src.index, src.mask, src.vector)) =
    [(0, 0x01, 0x0040), (1, 0x02, 0x0048), (2, 0x04, 0x0050), (3, 0x08, 0x0058),
     (4, 0x10, 0x0060)] ∧
  ∀ (requests : Byte) (kind : Nat) (s : State),
    (s.params.platform.raises = true →
      ∀ k, (storedByte (environmentMove requests s) 0xFF0F).getLsbD k =
        ((storedByte s 0xFF0F).getLsbD k || (decide (k < 5) && requests.getLsbD k))) ∧
    (s.params.platform.raises = false → environmentMove requests s = s) ∧
    (∀ x, x ≠ 0xFF0F → storedByte (environmentMove requests s) x = storedByte s x) ∧
    environmentMove requests s = { s with mem := (environmentMove requests s).mem } ∧
    (s.params.platform.changes = true →
      deviceMove kind s = { s with devices := .change kind :: s.devices }) ∧
    (s.params.platform.changes = false → deviceMove kind s = s) ∧
    (s.params.platform = .flatRAM → deviceMove kind (environmentMove requests s) = s)

/-- After `STOP` the mode is `Stopped`, and then nothing changes, for ever: any number of steps leave
the state as it is, and a request does not end it (60_exceptions.md rule R430). -/
def Obligations.StoppedForEver : Prop :=
  (∀ (s : State) (pad : Byte), exec (.stop pad) s = .next { s with mode := .stopped }) ∧
    ∀ (s : State) (k : Nat) (requests : Byte), s.mode = .stopped →
      steps k s = .next s ∧
        steps k (environmentMove requests s) = .next (environmentMove requests s)

/-- `Halted` waits while nothing is pending; with no source enabled it is stuck whatever is requested;
and a stuck state stays one, with every later step returning it unchanged, whatever the platform does
(60_exceptions.md rules R425 and R431). -/
def Obligations.HaltedWaits : Prop :=
  (∀ s : State, s.mode = .halted →
    (pending s = 0 → ∀ k, steps k s = .next s) ∧
      (storedByte s 0xFFFF &&& 0x1F = 0 → ∀ requests : Byte,
        pending (environmentMove requests s) = 0 ∧
          step (environmentMove requests s) = .next (environmentMove requests s))) ∧
  ∀ (s : State) (requests : Byte) (kind : Nat), Stuck s →
    step s = .next s ∧ Stuck (deviceMove kind (environmentMove requests s))

/-- The `EI` delay (70_reset_and_hazards.md rule R460): the instruction after an `EI` runs with no
interrupt before it, and what it leaves is what the step leaves but for `IME`, which is then 1 unless
it is `DI`. -/
def Obligations.EiDelay : Prop :=
  ∀ (s t : State) (i : Instr) (rest : List Byte),
    s.mode = .running → s.ime = false → s.eiPending = true → s.haltBug = false →
    decode (readAll (codeAt s.pc) s).1 = .ok (i, rest) → step s = .next t →
    t.eiPending = false ∧ (t.ime = true ↔ i ≠ .di) ∧
      ∃ u,
        exec i { (readAll ((codeAt s.pc).take (encode i).length) s).2 with
          pc := s.pc + BitVec.ofNat 16 (encode i).length } = .next u ∧
        t = { u with ime := u.ime || u.eiPending, eiPending := false }

/-- With interrupts disabled, only a fetched `RETI` sets `IME` and only a fetched `EI` makes it
pending (70_reset_and_hazards.md rule R454: a program that never executes either is never
interrupted). -/
def Obligations.OnlyEiAndRetiEnable : Prop :=
  ∀ s t : State, s.ime = false → s.eiPending = false → step s = .next t →
    (t.ime = true → (fetchInstr { s with mode := .running }).1 = .reti) ∧
      (t.eiPending = true → (fetchInstr { s with mode := .running }).1 = .ei)

/-! ### Memory, the stack, the views of the registers -/

/-- An access goes to the platform (20_memory.md rule R71), which answers by what the cell is
(10_state.md rule R45): a device answers a read and sees it; RAM and ROM answer the stored byte with
the bits that read as 1; RAM alone stores a write, and the devices see every other. On flat RAM a read
gives the last value written and no access has another effect (rule R81). -/
def Obligations.MemoryAccess : Prop :=
  (∀ (s : State) (x : Word) (v : Byte),
    (kindAt s x = .device →
      memRead s x = (Config.deviceByte s.devices x, { s with devices := .read x :: s.devices })) ∧
    (kindAt s x ≠ .device → memRead s x = (storedByte s x ||| (kindAt s x).ones, s)) ∧
    ((kindAt s x).isRam = true →
      memWrite s x v = { s with mem := (memWrite s x v).mem } ∧
        ∀ y, storedByte (memWrite s x v) y = if y = x then v else storedByte s y) ∧
    ((kindAt s x).isRam = false →
      memWrite s x v = { s with devices := .write x v :: s.devices })) ∧
  ∀ (s : State) (x y : Word) (v : Byte), s.params.platform = .flatRAM →
    (memRead s x).2 = s ∧ (memWrite s x v).devices = s.devices ∧
      (memRead (memWrite s x v) y).1 = if y = x then v else (memRead s y).1

/-- `Write16` then `Read16`, at every address, the last one included: the low byte at the address, the
high byte at the next, in that order, nothing else; and from RAM the word comes back (20_memory.md
rule R76). -/
def Obligations.Write16ThenRead16 : Prop :=
  ∀ (s : State) (x w : Word),
    (write16 s x w).f = s.f ∧
      (∃ low high : Byte, low.toNat = w.toNat % 256 ∧ high.toNat = w.toNat / 256 ∧
        Holds s (write16 s x w) x low ∧ Holds s (write16 s x w) (x + 1) high ∧
        OnlyR8 [] [.write x low, .write (x + 1) high] s (write16 s x w)) ∧
      OnlyR8 [] [.read x, .read (x + 1)] s (read16 s x).2 ∧
      (kindAt s x = .ram 0x00 → kindAt s (x + 1) = .ram 0x00 →
        (read16 (write16 s x w) x).1 = w)

/-- `Push16` and `Pop16`: the high byte is at the higher address, and the popped cells are not changed
(20_memory.md rules R77 and R78); and on a stack in RAM the word and the stack pointer come back. -/
def Obligations.Push16ThenPop16 : Prop :=
  ∀ (s : State) (w : Word),
    (∃ high low : Byte, high.toNat = w.toNat / 256 ∧ low.toNat = w.toNat % 256 ∧
        Pushes high low s (push16 s w)) ∧
      (push16 s w).pc = s.pc ∧
      (pop16 s).1.toNat = wordAtSP s ∧ (pop16 s).2.sp = s.sp + 2 ∧ (pop16 s).2.pc = s.pc ∧
      OnlyStack (popReads s) s (pop16 s).2 ∧
      (kindAt s (s.sp - 1) = .ram 0x00 → kindAt s (s.sp - 2) = .ram 0x00 →
        (pop16 (push16 s w)).1 = w ∧ (pop16 (push16 s w)).2 = { push16 s w with sp := s.sp })

/-- Memory is canonical: two memories in canonical form that hold the same at every address are the
same data, and writing to RAM what is there changes nothing (the model's form; log entry 2). -/
def Obligations.CanonicalMemory : Prop :=
  (∀ m m' : Memory, Memory.wf m → Memory.wf m' →
      (∀ x, x < 65536 → memGet m x = memGet m' x) → m = m') ∧
    ∀ (s : State) (x : Word), Memory.wf s.mem → kindAt s x = .ram 0x00 →
      memWrite s x (peek s x) = s

/-- The byte of `F` (10_state.md rule R33): `Z N H C` in bits 7 to 4, and bits 3 to 0 read as 0
whatever was written; `PUSH AF` stores that byte and `POP AF` takes the flags from one. -/
def Obligations.FlagByteLayout : Prop :=
  (∀ f : Flags,
      (flagsByte f).toNat = 128 * f.z.toNat + 64 * f.n.toNat + 32 * f.h.toNat + 16 * f.c.toNat ∧
        flagsOfByte (flagsByte f) = f) ∧
    (∀ v : Byte, (flagsByte (flagsOfByte v)).toNat = v.toNat - v.toNat % 16) ∧
    ∀ s : State,
      (Completes .pushAF s fun t => Holds s t (s.sp - 2) (flagsByte s.f)) ∧
        Completes .popAF s fun t => t.f = flagsOfByte (peek s s.sp)

/-- The pairs are views of two registers, the first-named the high byte: a write of a pair writes both
halves and no other, and a write of a half changes the pair (10_state.md rule R35). -/
def Obligations.PairsAreViews : Prop :=
  ∀ (s : State) (p : R16) (w : Word) (r : R8) (v : Byte),
    (getR16 (setR16 s p w) p).toNat = w.toNat ∧
      KeepsR8 (halves p) s (setR16 s p w) ∧
      (getR16 s p).toNat =
        256 * (getR8 s ((halves p).getD 0 .a)).toNat + (getR8 s ((halves p).getD 1 .a)).toNat ∧
      getR8 (setR8 s r v) r = v ∧ KeepsR8 [r] s (setR8 s r v)

/-- The conditions (30_encoding.md rule R110): the four codes, and when each holds. -/
def Obligations.Conditions : Prop :=
  ([0, 1, 2, 3].map condOfCode = [Cond.nz, .z, .nc, .c]) ∧
    ∀ s : State,
      (condHolds s .nz = true ↔ s.f.z = false) ∧ (condHolds s .z = true ↔ s.f.z = true) ∧
        (condHolds s .nc = true ↔ s.f.c = false) ∧ (condHolds s .c = true ↔ s.f.c = true)

/-- What reset leaves (70_reset_and_hazards.md rule R450): the core's own reset fixes `PC`, `IME`,
`ei_pending` and `mode`, whatever the parameters, the registers it does not fix, memory and the devices;
the DMG entry has its own values; every source is masked in both. The model's choices (log entries 1, 2,
3, 4 and 15) are that `State.reset` is the first of the two, on flat RAM, with its own values for what
the core leaves unspecified, over memory with nothing listed and devices that have seen nothing. -/
def Obligations.ResetState : Prop :=
  (∀ (params : Params) (u : Unspecified) (mem : Memory) (devices : List DeviceEvent),
      let s := State.coreReset params u mem devices
      s.pc = 0x0000 ∧ s.ime = false ∧ s.eiPending = false ∧ s.mode = .running ∧
        s.haltBug = false ∧ s.mem = mem ∧ s.devices = devices ∧ s.params = params ∧
        [s.a, s.b, s.c, s.d, s.e, s.h, s.l] = [u.a, u.b, u.c, u.d, u.e, u.h, u.l] ∧
        s.f = u.f ∧ s.sp = u.sp) ∧
    (∀ (params : Params) (mem : Memory) (devices : List DeviceEvent),
      let s := State.dmgEntry params mem devices
      s.pc = 0x0100 ∧ getAF s = 0x01B0 ∧ getR16 s .bc = 0x0013 ∧ getR16 s .de = 0x00D8 ∧
        getHL s = 0x014D ∧ s.sp = 0xFFFE ∧ s.ime = false ∧ s.eiPending = false ∧
        s.mode = .running ∧ s.haltBug = false ∧ s.mem = mem ∧ s.devices = devices ∧
        s.params = params) ∧
    (∀ s, Initial s → s.ime = false ∧ storedByte s 0xFFFF = 0x00) ∧
    Initial State.reset ∧ (∃ u, State.reset = State.coreReset resetParams u [] []) ∧
      resetParams.platform = .flatRAM

/-! ### 8-bit arithmetic and logic -/

/-- `ADD A,x` and `ADC A,x` in their three operand forms: `Add8` (40_alu8.md rule R169), with the
carry-in in both overflow tests; nothing but `A` and the flags changes. -/
def Obligations.AddAdcResult : Prop :=
  ∀ (s : State) (x : Rhs) (withCarry : Bool),
    Completes (if withCarry then adcOf x else addOf x) s fun t =>
      let v := (rhsValue s x).toNat
      let cin := if withCarry then s.f.c.toNat else 0
      t.a.toNat = (s.a.toNat + v + cin) % 256 ∧
        FlagsAre t.f (t.a = 0) False (15 < s.a.toNat % 16 + v % 16 + cin)
          (255 < s.a.toNat + v + cin) ∧
        OnlyR8 [.a] (rhsAccesses s x) s t

/-- `SUB A,x` and `SBC A,x` in their three operand forms: `Sub8` (40_alu8.md rule R170), with `H` and
`C` set on a borrow and the carry-in counted in both. -/
def Obligations.SubSbcResult : Prop :=
  ∀ (s : State) (x : Rhs) (withCarry : Bool),
    Completes (if withCarry then sbcOf x else subOf x) s fun t =>
      let v := (rhsValue s x).toNat
      let cin := if withCarry then s.f.c.toNat else 0
      t.a.toNat = (s.a.toNat + 512 - v - cin) % 256 ∧
        FlagsAre t.f (t.a = 0) True (s.a.toNat % 16 < v % 16 + cin) (s.a.toNat < v + cin) ∧
        OnlyR8 [.a] (rhsAccesses s x) s t

/-- `CP A,x` leaves the flags of `SUB A,x` and every register as it was (40_alu8.md rules R159 to
R161). -/
def Obligations.CpResult : Prop :=
  ∀ (s : State) (x : Rhs),
    Completes (cpOf x) s fun t =>
      FlagsAre t.f (s.a = rhsValue s x) True
          (s.a.toNat % 16 < (rhsValue s x).toNat % 16) (s.a.toNat < (rhsValue s x).toNat) ∧
        OnlyR8 [] (rhsAccesses s x) s t ∧ ∃ u, exec (subOf x) s = .next u ∧ t.f = u.f

/-- `AND`, `OR` and `XOR` in their three operand forms, bit by bit (40_alu8.md rules R156 to R158, R166
to R168, R177 to R179). -/
def Obligations.LogicResult : Prop :=
  ∀ (s : State) (x : Rhs),
    (Completes (andOf x) s fun t =>
      (∀ k, k < 8 → t.a.getLsbD k = (s.a.getLsbD k && (rhsValue s x).getLsbD k)) ∧
        FlagsAre t.f (t.a = 0) False True False ∧ OnlyR8 [.a] (rhsAccesses s x) s t) ∧
    (Completes (orOf x) s fun t =>
      (∀ k, k < 8 → t.a.getLsbD k = (s.a.getLsbD k || (rhsValue s x).getLsbD k)) ∧
        FlagsAre t.f (t.a = 0) False False False ∧ OnlyR8 [.a] (rhsAccesses s x) s t) ∧
    (Completes (xorOf x) s fun t =>
      (∀ k, k < 8 → t.a.getLsbD k = (s.a.getLsbD k != (rhsValue s x).getLsbD k)) ∧
        FlagsAre t.f (t.a = 0) False False False ∧ OnlyR8 [.a] (rhsAccesses s x) s t)

/-- `INC` and `DEC` of a byte: `C` is unchanged; the `[HL]` forms store the one byte at `HL` (40_alu8.md
rules R162 to R165). -/
def Obligations.IncDecByteResult : Prop :=
  ∀ (s : State) (r : R8),
    (Completes (.incR8 r) s fun t =>
      (getR8 t r).toNat = ((getR8 s r).toNat + 1) % 256 ∧
        FlagsAre t.f (getR8 s r = 0xFF) False ((getR8 s r).toNat % 16 = 15) (s.f.c = true) ∧
        OnlyR8 [r] [] s t) ∧
    (Completes (.decR8 r) s fun t =>
      (getR8 t r).toNat = ((getR8 s r).toNat + 255) % 256 ∧
        FlagsAre t.f (getR8 s r = 0x01) True ((getR8 s r).toNat % 16 = 0) (s.f.c = true) ∧
        OnlyR8 [r] [] s t) ∧
    (Completes .incAtHL s fun t => ∃ v : Byte,
      v.toNat = ((peek s (getHL s)).toNat + 1) % 256 ∧
        FlagsAre t.f (v = 0) False ((peek s (getHL s)).toNat % 16 = 15) (s.f.c = true) ∧
        ModifiesAtHL v s t) ∧
    (Completes .decAtHL s fun t => ∃ v : Byte,
      v.toNat = ((peek s (getHL s)).toNat + 255) % 256 ∧
        FlagsAre t.f (v = 0) True ((peek s (getHL s)).toNat % 16 = 0) (s.f.c = true) ∧
        ModifiesAtHL v s t)

/-! ### 16-bit arithmetic -/

/-- `ADD HL,r16` and `ADD HL,SP`: `65536 * C + HL` is the sum exactly, `H` is the carry out of bit 11,
`Z` is unchanged (41_alu16.md rules R200, R201 and R208). -/
def Obligations.AddHLResult : Prop :=
  ∀ (s : State) (i : Instr) (v : Word),
    ((∃ p, i = .addHLR16 p ∧ v = getR16 s p) ∨ (i = .addHLSP ∧ v = s.sp)) →
    Completes i s fun t =>
      65536 * t.f.c.toNat + (getHL t).toNat = (getHL s).toNat + v.toNat ∧
        t.f.z = s.f.z ∧ t.f.n = false ∧
        (t.f.h = true ↔ 4095 < (getHL s).toNat % 4096 + v.toNat % 4096) ∧
        OnlyR8 [.h, .l] [] s t

/-- `ADD SP,e8` and `LD HL,SP+e8`: `AddSP` (41_alu16.md rule R207), the offset signed in the sum and
unsigned in the flags. -/
def Obligations.AddSPResult : Prop :=
  ∀ (s : State) (e : Byte),
    let sum : Int := (s.sp.toNat + e.toInt) % 65536
    let flags := fun t : State => FlagsAre t.f False False
      (15 < s.sp.toNat % 16 + e.toNat % 16) (255 < s.sp.toNat % 256 + e.toNat)
    (Completes (.addSPE8 e) s fun t =>
      (t.sp.toNat : Int) = sum ∧ flags t ∧ t.pc = s.pc ∧ KeepsR8 [] s t ∧ KeepsControl s t ∧
        Accessed [] s t) ∧
    (Completes (.ldHLSPE8 e) s fun t =>
      ((getHL t).toNat : Int) = sum ∧ flags t ∧ OnlyR8 [.h, .l] [] s t)

/-- `INC` and `DEC` of a pair and of `SP` wrap, and no flag records it (41_alu16.md rules R203 to
R206). -/
def Obligations.IncDecWordResult : Prop :=
  ∀ (s : State) (p : R16),
    (Completes (.incR16 p) s fun t =>
      (getR16 t p).toNat = ((getR16 s p).toNat + 1) % 65536 ∧ t.f = s.f ∧
        OnlyR8 (halves p) [] s t) ∧
    (Completes (.decR16 p) s fun t =>
      (getR16 t p).toNat = ((getR16 s p).toNat + 65535) % 65536 ∧ t.f = s.f ∧
        OnlyR8 (halves p) [] s t) ∧
    (Completes .incSP s fun t =>
      t.sp.toNat = (s.sp.toNat + 1) % 65536 ∧ t.pc = s.pc ∧ OnlyStack [] s t) ∧
    (Completes .decSP s fun t =>
      t.sp.toNat = (s.sp.toNat + 65535) % 65536 ∧ t.pc = s.pc ∧ OnlyStack [] s t)

/-! ### Bits, rotates and shifts -/

/-- `BIT u3,r8` and `BIT u3,[HL]`: nothing but `F` changes, and `C` is kept (42_bit.md rules R220 and
R221). -/
def Obligations.BitResult : Prop :=
  ∀ (s : State) (u : BitVec 3) (i : Instr) (v : Byte) (accesses : List DeviceEvent),
    ((∃ r, i = .bitR8 u r ∧ v = getR8 s r ∧ accesses = []) ∨
      (i = .bitAtHL u ∧ v = peek s (getHL s) ∧ accesses = [.read (getHL s)])) →
    Completes i s fun t =>
      FlagsAre t.f (v.toNat / 2 ^ u.toNat % 2 = 0) False True (s.f.c = true) ∧
        OnlyR8 [] accesses s t

/-- `RES` and `SET` write the one bit and no flag (42_bit.md rules R222 to R225). -/
def Obligations.ResSetResult : Prop :=
  ∀ (s : State) (u : BitVec 3) (r : R8) (value : Bool),
    (Completes (if value then .setR8 u r else .resR8 u r) s fun t =>
      (∀ k, k < 8 → (getR8 t r).getLsbD k =
        if k = u.toNat then value else (getR8 s r).getLsbD k) ∧
        t.f = s.f ∧ OnlyR8 [r] [] s t) ∧
    (Completes (if value then .setAtHL u else .resAtHL u) s fun t => ∃ v : Byte,
      (∀ k, k < 8 → v.getLsbD k =
        if k = u.toNat then value else (peek s (getHL s)).getLsbD k) ∧
        t.f = s.f ∧ ModifiesAtHL v s t)

/-- `SWAP` exchanges the nibbles and clears `C` (42_bit.md rules R226 and R227). -/
def Obligations.SwapResult : Prop :=
  ∀ (s : State) (r : R8),
    (Completes (.swapR8 r) s fun t =>
      (getR8 t r).toNat = 16 * ((getR8 s r).toNat % 16) + (getR8 s r).toNat / 16 ∧
        FlagsAre t.f (getR8 s r = 0) False False False ∧ OnlyR8 [r] [] s t) ∧
    (Completes .swapAtHL s fun t => ∃ v : Byte,
      v.toNat = 16 * ((peek s (getHL s)).toNat % 16) + (peek s (getHL s)).toNat / 16 ∧
        FlagsAre t.f (v = 0) False False False ∧ ModifiesAtHL v s t)

/-- The seven rotates and shifts on a register and on the byte at `HL`, and the four on `A` alone,
which write `Z` with 0 (43_rotate_shift.md rule R240). -/
def Obligations.RotateShiftResult : Prop :=
  ∀ (s : State) (op : Rot) (r : R8),
    (Completes (rotR8 op r) s fun t =>
      (getR8 t r).toNat = rotResult (getR8 s r).toNat s.f.c.toNat op ∧
        FlagsAre t.f (getR8 t r = 0) False False (rotCarry (getR8 s r).toNat op = 1) ∧
        OnlyR8 [r] [] s t) ∧
    (Completes (rotAtHL op) s fun t => ∃ v : Byte,
      v.toNat = rotResult (peek s (getHL s)).toNat s.f.c.toNat op ∧
        FlagsAre t.f (v = 0) False False
          (rotCarry (peek s (getHL s)).toNat op = 1) ∧
        ModifiesAtHL v s t) ∧
    ∀ i, (i, op) ∈ [(Instr.rla, Rot.rl), (.rlca, .rlc), (.rra, .rr), (.rrca, .rrc)] →
      Completes i s fun t =>
        t.a.toNat = rotResult s.a.toNat s.f.c.toNat op ∧
          FlagsAre t.f False False False (rotCarry s.a.toNat op = 1) ∧ OnlyR8 [.a] [] s t

/-- Nine `RL` or nine `RR` in a row restore the register and the carry; eight `RLC` or `RRC`, and two
`SWAP`, restore the register (95_test_vectors.md law L-6). -/
def Obligations.RotationsRestore : Prop :=
  ∀ (s : State) (r : R8),
    (∀ i ∈ [Instr.rlR8 r, .rrR8 r], ∃ t, repeated i 9 s = .next t ∧
      getR8 t r = getR8 s r ∧ t.f.c = s.f.c ∧ OnlyR8 [r] [] s t) ∧
    (∀ i ∈ [Instr.rlcR8 r, .rrcR8 r], ∃ t, repeated i 8 s = .next t ∧
      getR8 t r = getR8 s r ∧ OnlyR8 [r] [] s t) ∧
    ∃ t, repeated (.swapR8 r) 2 s = .next t ∧ getR8 t r = getR8 s r ∧ OnlyR8 [r] [] s t

/-! ### Loads and stores -/

/-- The loads of registers from registers and constants (44_load.md rules R280, R281, R282, R298 and
R301). -/
def Obligations.LoadRegisterResult : Prop :=
  ∀ (s : State) (dst src : R8) (p : R16) (n : Byte) (w : Word),
    (Completes (.ldR8R8 dst src) s fun t =>
      getR8 t dst = getR8 s src ∧ t.f = s.f ∧ OnlyR8 [dst] [] s t) ∧
    (Completes (.ldR8N8 dst n) s fun t => getR8 t dst = n ∧ t.f = s.f ∧ OnlyR8 [dst] [] s t) ∧
    (Completes (.ldR16N16 p w) s fun t =>
      getR16 t p = w ∧ t.f = s.f ∧ OnlyR8 (halves p) [] s t) ∧
    (Completes (.ldSPN16 w) s fun t => t.sp = w ∧ t.pc = s.pc ∧ OnlyStack [] s t) ∧
    (Completes .ldSPHL s fun t =>
      t.sp.toNat = 256 * s.h.toNat + s.l.toNat ∧ t.pc = s.pc ∧ OnlyStack [] s t)

/-- The loads from memory, each from the address of its mode; `LD H,[HL]` and `LD L,[HL]` use the old
`HL` (44_load.md rules R285, R290 to R293 and R302). -/
def Obligations.LoadFromMemoryResult : Prop :=
  ∀ (s : State) (r : R8) (p : R16) (n : Byte) (w : Word),
    (Completes (.ldR8AtHL r) s fun t =>
      getR8 t r = peek s (getHL s) ∧ t.f = s.f ∧ OnlyR8 [r] [.read (getHL s)] s t) ∧
    Completes (.ldAAtR16 p) s (LoadsA (getR16 s p) s) ∧
    Completes (.ldAAtN16 w) s (LoadsA w s) ∧
    Completes (.ldAHighN8 n) s (LoadsA (0xFF00 + n.setWidth 16) s) ∧
    Completes .ldAHighC s (LoadsA (0xFF00 + s.c.setWidth 16) s)

/-- The stores of one byte, each at the address of its mode (44_load.md rules R283, R284, R286 to R289
and R302). -/
def Obligations.StoreResult : Prop :=
  ∀ (s : State) (r : R8) (p : R16) (n : Byte) (w : Word),
    Completes (.ldAtHLR8 r) s (Stores (getHL s) (getR8 s r) s) ∧
      Completes (.ldAtHLN8 n) s (Stores (getHL s) n s) ∧
      Completes (.ldAtR16A p) s (Stores (getR16 s p) s.a s) ∧
      Completes (.ldAtN16A w) s (Stores w s.a s) ∧
      Completes (.ldHighN8A n) s (Stores (0xFF00 + n.setWidth 16) s.a s) ∧
      Completes .ldHighCA s (Stores (0xFF00 + s.c.setWidth 16) s.a s)

/-- The loads and stores of `A` that step `HL` use the old `HL` as the address, then add or subtract 1
modulo 65536 (44_load.md rules R294 to R297). -/
def Obligations.SteppingLoadResult : Prop :=
  ∀ s : State,
    (∀ i d, (i, d) ∈ [(Instr.ldAtHLIncA, 1), (.ldAtHLDecA, 65535)] → Completes i s fun t =>
      Holds s t (getHL s) s.a ∧ (getHL t).toNat = ((getHL s).toNat + d) % 65536 ∧
        t.f = s.f ∧ OnlyR8 [.h, .l] [.write (getHL s) s.a] s t) ∧
    ∀ i d, (i, d) ∈ [(Instr.ldAAtHLInc, 1), (.ldAAtHLDec, 65535)] → Completes i s fun t =>
      t.a = peek s (getHL s) ∧ (getHL t).toNat = ((getHL s).toNat + d) % 65536 ∧
        t.f = s.f ∧ OnlyR8 [.a, .h, .l] [.read (getHL s)] s t

/-- `LD [n16],SP` stores the low byte of `SP` at `n16` and the high byte at `n16 + 1`, modulo 65536
(44_load.md rule R299). -/
def Obligations.StoreSPResult : Prop :=
  ∀ (s : State) (w : Word),
    Completes (.ldAtN16SP w) s fun t => ∃ low high : Byte,
      low.toNat = s.sp.toNat % 256 ∧ high.toNat = s.sp.toNat / 256 ∧
        Holds s t w low ∧ Holds s t (w + 1) high ∧ t.f = s.f ∧
        OnlyR8 [] [.write w low, .write (w + 1) high] s t

/-! ### Control transfers and the stack -/

/-- The jumps change nothing but `PC`; a condition that does not hold leaves `PC` at the following
instruction (45_control.md rules R322 to R326). -/
def Obligations.JumpResult : Prop :=
  ∀ (s : State) (cc : Cond) (w : Word) (e : Byte),
    exec (.jpN16 w) s = .next { s with pc := w } ∧
      exec (.jpCcN16 cc w) s = .next { s with pc := if condHolds s cc then w else s.pc } ∧
      (Completes .jpHL s fun t =>
        t.pc.toNat = 256 * s.h.toNat + s.l.toNat ∧ t = { s with pc := t.pc }) ∧
      (Completes (.jrE8 e) s fun t =>
        (t.pc.toNat : Int) = (s.pc.toNat + e.toInt) % 65536 ∧ t = { s with pc := t.pc }) ∧
      (Completes (.jrCcE8 cc e) s fun t =>
        (condHolds s cc = true → (t.pc.toNat : Int) = (s.pc.toNat + e.toInt) % 65536) ∧
          (condHolds s cc = false → t.pc = s.pc) ∧ t = { s with pc := t.pc })

/-- `CALL`, `CALL cc` and `RST` push the address of the following instruction and jump; a `CALL cc`
whose condition does not hold changes nothing (45_control.md rules R320, R321 and R330). -/
def Obligations.CallResult : Prop :=
  ∀ (s : State) (cc : Cond) (w : Word) (vec : Byte),
    Completes (.callN16 w) s (Calls w s) ∧
      (Completes (.callCcN16 cc w) s fun t =>
        (condHolds s cc = true → Calls w s t) ∧ (condHolds s cc = false → t = s)) ∧
      Completes (.rstVec vec) s (Calls (BitVec.ofNat 16 vec.toNat) s)

/-- `RET`, `RET cc` and `RETI` pop `PC`; a `RET cc` whose condition does not hold changes nothing; and
`RETI` also sets `IME`, with no delay (45_control.md rules R327 to R329). -/
def Obligations.ReturnResult : Prop :=
  ∀ (s : State) (cc : Cond),
    (Completes .ret s fun t => Returns s t ∧ OnlyStack (popReads s) s t) ∧
      (Completes (.retCc cc) s fun t =>
        (condHolds s cc = true → Returns s t ∧ OnlyStack (popReads s) s t) ∧
          (condHolds s cc = false → t = s)) ∧
      (Completes .reti s fun t =>
        Returns s t ∧ t.ime = true ∧ t.eiPending = false ∧ t.mode = s.mode ∧
          t.haltBug = s.haltBug ∧ t.f = s.f ∧ KeepsR8 [] s t ∧ Accessed (popReads s) s t)

/-- `PUSH r16` and `PUSH AF`: the high register at the higher address; the byte for `F` has its low
four bits 0 (46_stack.md rules R352 and R353). -/
def Obligations.PushResult : Prop :=
  ∀ (s : State) (p : R16),
    (Completes (.pushR16 p) s fun t => t.pc = s.pc ∧ ∃ high low : Byte,
      256 * high.toNat + low.toNat = (getR16 s p).toNat ∧ Pushes high low s t) ∧
    (Completes .pushAF s fun t => t.pc = s.pc ∧ ∃ low : Byte,
      low.toNat =
          128 * s.f.z.toNat + 64 * s.f.n.toNat + 32 * s.f.h.toNat + 16 * s.f.c.toNat ∧
        Pushes s.a low s t)

/-- `POP r16` and `POP AF`: the low register from the lower address; `POP AF` takes the flags from bits
7 to 4 of that byte and drops the rest (46_stack.md rules R350 and R351). -/
def Obligations.PopResult : Prop :=
  ∀ (s : State) (p : R16),
    (Completes (.popR16 p) s fun t =>
      (getR16 t p).toNat = wordAtSP s ∧ t.sp = s.sp + 2 ∧ t.pc = s.pc ∧ t.f = s.f ∧
        KeepsR8 (halves p) s t ∧ KeepsControl s t ∧ Accessed (popReads s) s t) ∧
    (Completes .popAF s fun t =>
      t.a.toNat = wordAtSP s / 256 ∧ t.sp = s.sp + 2 ∧ t.pc = s.pc ∧
        FlagsAre t.f (wordAtSP s / 128 % 2 = 1) (wordAtSP s / 64 % 2 = 1)
          (wordAtSP s / 32 % 2 = 1) (wordAtSP s / 16 % 2 = 1) ∧
        KeepsR8 [.a] s t ∧ KeepsControl s t ∧ Accessed (popReads s) s t)

/-! ### Flags, decimal adjust, interrupt control, power -/

/-- `CCF`, `SCF` and `CPL`: `Z` is unchanged by each (47_misc.md rules R360, R362 and R384). -/
def Obligations.CarryAndComplementResult : Prop :=
  ∀ s : State,
    (Completes .ccf s fun t =>
      FlagsAre t.f (s.f.z = true) False False (s.f.c = false) ∧ OnlyR8 [] [] s t) ∧
    (Completes .scf s fun t => FlagsAre t.f (s.f.z = true) False False True ∧ OnlyR8 [] [] s t) ∧
    (Completes .cpl s fun t =>
      t.a.toNat = 255 - s.a.toNat ∧
        FlagsAre t.f (s.f.z = true) True True (s.f.c = true) ∧ OnlyR8 [.a] [] s t)

/-- `DAA` (47_misc.md rule R364) on every value of `A` and of the flags: every test uses the values
before the instruction, and `N` is unchanged. -/
def Obligations.DaaResult : Prop :=
  ∀ s : State,
    let a := s.a.toNat
    let low := s.f.h = true ∨ s.f.n = false ∧ 9 < a % 16
    let high := s.f.c = true ∨ s.f.n = false ∧ 0x99 < a
    Completes .daa s fun t =>
      (∀ k6 k60 : Nat, (low → k6 = 0x06) → (¬ low → k6 = 0) → (high → k60 = 0x60) →
        (¬ high → k60 = 0) →
        t.a.toNat = if s.f.n then (a + 256 - k6 - k60) % 256 else (a + k6 + k60) % 256) ∧
        FlagsAre t.f (t.a = 0) (s.f.n = true) False high ∧ OnlyR8 [.a] [] s t

/-- The law of `DAA`: after an addition or a subtraction of packed BCD bytes it leaves the packed BCD
of the decimal sum or difference modulo 100, with `C` its carry or borrow (47_misc.md rule R364,
95_test_vectors.md law L-5). -/
def Obligations.DaaGivesDecimal : Prop :=
  ∀ (s : State) (m n : Nat) (withCarry : Bool),
    m < 100 → n < 100 → s.a = BitVec.ofNat 8 (bcd m) →
    let y := Rhs.imm (BitVec.ofNat 8 (bcd n))
    let c := if withCarry then s.f.c.toNat else 0
    (Completes (if withCarry then adcOf y else addOf y) s fun t => Completes .daa t fun u =>
      u.a.toNat = bcd ((m + n + c) % 100) ∧
        FlagsAre u.f ((m + n + c) % 100 = 0) False False (99 < m + n + c)) ∧
    (Completes (if withCarry then sbcOf y else subOf y) s fun t => Completes .daa t fun u =>
      u.a.toNat = bcd ((m + 200 - n - c) % 100) ∧
        FlagsAre u.f ((m + 200 - n - c) % 100 = 0) True False (m < n + c))

/-- `DI`, `EI`, `NOP` and `STOP`: what each changes of the control state, and that nothing else changes
(47_misc.md rules R366, R368, R380 and R388). -/
def Obligations.ControlStateResult : Prop :=
  ∀ (s : State) (pad : Byte),
    exec .di s = .next { s with ime := false, eiPending := false } ∧
      exec .ei s = .next { s with eiPending := true } ∧
      exec .nop s = .next s ∧
      exec (.stop pad) s = .next { s with mode := .stopped }

/-- `HALT` halts, but for `IME = 0` with an enabled request pending: there it sets `halt_bug` under the
policy `emulate`, and is the fault `HaltBug` under the policy `fault`, with nothing else changed
(47_misc.md rule R376, 70_reset_and_hazards.md rule R461); an `EI` before it makes no difference
(90_conflicts.md C11). Under the policy `fault` no step sets `halt_bug`. -/
def Obligations.HaltResult : Prop :=
  ∀ s : State,
    ((s.ime = true ∨ pending s = 0) → exec .halt s = .next { s with mode := .halted }) ∧
      (s.ime = false → pending s ≠ 0 → s.params.haltBugPolicy = .emulate →
        exec .halt s = .next { s with haltBug := true }) ∧
      (s.ime = false → pending s ≠ 0 → s.params.haltBugPolicy = .fault →
        exec .halt s = .fault (.haltBug s)) ∧
      ∀ t, s.params.haltBugPolicy = .fault → s.haltBug = false → step s = .next t →
        t.haltBug = false

/-- Executing one of the eleven bytes that encode nothing is the fault `IllegalOpcode(op)` with nothing
changed after the fetch of the byte; no line of the assembler means one (30_encoding.md
rule R116). -/
def Obligations.IllegalOpcodeStops : Prop :=
  ∀ (s : State) (op : Byte) (i : Instr), (op, i) ∈ illegalRows →
    exec i s = .fault (.illegalOpcode op s) ∧ encode i = [op] ∧
      ∀ here, disassemble here i = none ∧ ∀ line, assemble here line ≠ some i

/-! ### Over all instructions -/

/-- Which instruction writes which flag: the whole table of 10_state.md rule R49, with `CCF`'s
complement and the byte `POP AF` takes the flags from. -/
def Obligations.FlagTable : Prop :=
  ∀ (i : Instr) (s t : State), exec i s = .next t →
    ((flagRow i).1.Holds s.f.z t.f.z ∧ (flagRow i).2.1.Holds s.f.n t.f.n ∧
      (flagRow i).2.2.1.Holds s.f.h t.f.h ∧ (flagRow i).2.2.2.Holds s.f.c t.f.c) ∧
    (i = .ccf → t.f.c ≠ s.f.c) ∧
    (i = .popAF → [t.f.z, t.f.n, t.f.h, t.f.c] =
      [7, 6, 5, 4].map fun k => (peek s s.sp).getLsbD k)

/-- Every instruction that is no control transfer leaves `PC` at the following instruction
(10_state.md rule R38). -/
def Obligations.PcAdvances : Prop :=
  ∀ (i : Instr) (s t : State), exec i s = .next t → isTransfer i = false → t.pc = s.pc

/-- Instructions that compute the same thing: the high-page forms and the absolute ones at the same
address, a register loaded from itself and `NOP`, the rotates of `A` in their two lengths but for
`Z`, and the sum and flags of `ADD SP,e8` and `LD HL,SP+e8` (30_encoding.md rule R118,
95_test_vectors.md laws L-7 and L-11). -/
def Obligations.EquivalentForms : Prop :=
  ∀ (s : State) (n : Byte) (r : R8),
    exec (.ldHighN8A n) s = exec (.ldAtN16A (0xFF00 + n.setWidth 16)) s ∧
      exec (.ldAHighN8 n) s = exec (.ldAAtN16 (0xFF00 + n.setWidth 16)) s ∧
      exec (.ldR8R8 r r) s = exec .nop s ∧
      (∀ i j, (i, j) ∈ [(Instr.rlca, Instr.rlcR8 .a), (.rla, .rlR8 .a), (.rrca, .rrcR8 .a),
          (.rra, .rrR8 .a)] →
        ∃ t u, exec i s = .next t ∧ exec j s = .next u ∧
          t = { u with f := { u.f with z := false } }) ∧
      ∃ t u, exec (.addSPE8 n) s = .next t ∧ exec (.ldHLSPE8 n) s = .next u ∧
        getHL u = t.sp ∧ u.f = t.f ∧ u.sp = s.sp

/-- The data accesses of an instruction are those that the table of 20_memory.md rule R75 lists for it,
each at its address, with its byte and in that order (a platform of devices alone sees every one but
those of `IE` and `IF`); they are as many as its figure says. Each access takes one cycle: the fetches
and data accesses are no more than the instruction's cycles, and a taken transfer costs no less than one
not taken (70_reset_and_hazards.md rule R471). -/
def Obligations.AccessesWithinCycles : Prop :=
  (∀ (i : Instr) (s t : State), exec i s = .next t → Accessed (accessesOf i s) s t) ∧
  (∀ (i : Instr) (s : State), (accessesOf i s).length = figureIn i s (dataAccesses i)) ∧
  ∀ (i : Instr) (s : State) (c : Nat), cyclesIn i s = some c →
    instrBytes i + figureIn i s (dataAccesses i) ≤ c ∧
      ∃ taken notTaken, instrCycles i = some (taken, notTaken) ∧ notTaken ≤ taken ∧
        (c = taken ∨ c = notTaken)
end

