-- ==== Sys2Proof/Laws/Bits.lean ====
section
/-! SUPPORT. The small lemmas of the bit-field and narrowing helpers. -/

namespace Sys2Proof

@[simp] theorem hiByte_wordOf (h l : Byte) : hiByte (wordOf h l) = h := by
  ext i hi
  simp only [hiByte, wordOf, BitVec.getElem_extractLsb', BitVec.getLsbD_append]
  have h8 : ¬ (8 + i < 8) := by omega
  simp [h8, BitVec.getLsbD_eq_getElem hi]

@[simp] theorem loByte_wordOf (h l : Byte) : loByte (wordOf h l) = l := by
  ext i hi
  simp only [loByte, wordOf, BitVec.getElem_extractLsb', BitVec.getLsbD_append]
  simp [hi]

theorem toNat_wordOf (h l : Byte) : (wordOf h l).toNat = 256 * h.toNat + l.toNat := by
  have hl := l.isLt
  rw [wordOf, BitVec.toNat_append, ← Nat.shiftLeft_add_eq_or_of_lt hl, Nat.shiftLeft_eq]
  omega

theorem toNat_hiByte (w : Word) : (hiByte w).toNat = w.toNat / 256 := by
  have hw := w.isLt
  simp [hiByte, BitVec.extractLsb'_toNat, Nat.shiftRight_eq_div_pow]
  omega

theorem toNat_loByte (w : Word) : (loByte w).toNat = w.toNat % 256 := by
  simp [loByte, BitVec.extractLsb'_toNat]

@[simp] theorem wordOf_hiByte_loByte (w : Word) : wordOf (hiByte w) (loByte w) = w := by
  have hw := w.isLt
  apply BitVec.eq_of_toNat_eq
  rw [toNat_wordOf, toNat_hiByte, toNat_loByte]
  omega

@[simp] theorem toNat_trunc8 (n : Nat) : (trunc8 n).toNat = n % 256 := by
  simp only [trunc8, BitVec.toNat_ofInt]; omega

@[simp] theorem toNat_trunc16 (n : Nat) : (trunc16 n).toNat = n % 65536 := by
  simp only [trunc16, BitVec.toNat_ofInt]; omega

theorem toNat_trunc8_int (x : Int) : ((trunc8 x).toNat : Int) = x % 256 := by
  simp only [trunc8, BitVec.toNat_ofInt]; omega

theorem toNat_trunc16_int (x : Int) : ((trunc16 x).toNat : Int) = x % 65536 := by
  simp only [trunc16, BitVec.toNat_ofInt]; omega

/-- `signed8` is a value of -128 to 127 that agrees with the byte modulo 256. -/
theorem signed8_spec (b : Byte) :
    -128 ≤ signed8 b ∧ signed8 b < 128 ∧ signed8 b % 256 = b.toNat := by
  have hb := b.isLt
  unfold signed8
  split <;> omega

theorem lowNibble_lt (v : Byte) : lowNibble v < 16 := Nat.mod_lt _ (by omega)

theorem toNat_highPage (n : Byte) : (highPage n).toNat = 0xFF00 + n.toNat := by
  rw [highPage, toNat_wordOf]; rfl

end Sys2Proof
end

