-- ==== Sys2Proof/Laws/Flags.lean ====
section
/-! SUPPORT. For each flag computation, one lemma that says its result as a number and when each flag
is 1, to be cited instead of unfolding it. -/

namespace Sys2Proof.Machine

theorem toNat_eq_zero (v : Byte) : (v == 0) = true ↔ v.toNat = 0 := by
  rw [beq_iff_eq, ← BitVec.toNat_inj]; rfl

/-- `Add8` (40_alu8.md rule R169). -/
theorem add8_spec (a x : Byte) (cin : Bool) :
    (add8 a x cin).1.toNat = (a.toNat + x.toNat + cin.toNat) % 256 ∧
      ((add8 a x cin).2.z = true ↔ (add8 a x cin).1 = 0) ∧ (add8 a x cin).2.n = false ∧
      ((add8 a x cin).2.h = true ↔ 15 < a.toNat % 16 + x.toNat % 16 + cin.toNat) ∧
      ((add8 a x cin).2.c = true ↔ 255 < a.toNat + x.toNat + cin.toNat) :=
  ⟨toNat_trunc8 _, beq_iff_eq, rfl, decide_eq_true_iff, decide_eq_true_iff⟩

/-- `Sub8` (40_alu8.md rule R170). -/
theorem sub8_spec (a x : Byte) (cin : Bool) :
    (sub8 a x cin).1.toNat = (a.toNat + 512 - x.toNat - cin.toNat) % 256 ∧
      ((sub8 a x cin).2.z = true ↔ (sub8 a x cin).1 = 0) ∧ (sub8 a x cin).2.n = true ∧
      ((sub8 a x cin).2.h = true ↔ a.toNat % 16 < x.toNat % 16 + cin.toNat) ∧
      ((sub8 a x cin).2.c = true ↔ a.toNat < x.toNat + cin.toNat) := by
  refine ⟨?_, beq_iff_eq, rfl, decide_eq_true_iff, decide_eq_true_iff⟩
  have h := toNat_trunc8_int ((a.toNat : Int) - x.toNat - cin.toNat)
  have ha := a.isLt
  have hx := x.isLt
  have hc := Bool.toNat_le cin
  simp only [sub8]
  omega

/-- `INC` of a byte (40_alu8.md rule R164). -/
theorem inc8_spec (v : Byte) (f : Flags) :
    (inc8 v f).1.toNat = (v.toNat + 1) % 256 ∧
      ((inc8 v f).2.z = true ↔ (inc8 v f).1 = 0) ∧ (inc8 v f).2.n = false ∧
      ((inc8 v f).2.h = true ↔ v.toNat % 16 = 15) ∧ (inc8 v f).2.c = f.c :=
  ⟨toNat_trunc8 (v.toNat + 1), beq_iff_eq, rfl, beq_iff_eq, rfl⟩

/-- `DEC` of a byte (40_alu8.md rule R162). -/
theorem dec8_spec (v : Byte) (f : Flags) :
    (dec8 v f).1.toNat = (v.toNat + 255) % 256 ∧
      ((dec8 v f).2.z = true ↔ (dec8 v f).1 = 0) ∧ (dec8 v f).2.n = true ∧
      ((dec8 v f).2.h = true ↔ v.toNat % 16 = 0) ∧ (dec8 v f).2.c = f.c := by
  refine ⟨?_, beq_iff_eq, rfl, beq_iff_eq, rfl⟩
  have h := toNat_trunc8_int ((v.toNat : Int) - 1)
  have hv := v.isLt
  simp only [dec8]
  omega

/-- `ADD HL,r16` (41_alu16.md rule R200). -/
theorem add16_spec (x v : Word) (f : Flags) :
    (add16 x v f).1.toNat = (x.toNat + v.toNat) % 65536 ∧ (add16 x v f).2.z = f.z ∧
      (add16 x v f).2.n = false ∧
      ((add16 x v f).2.h = true ↔ 4095 < x.toNat % 4096 + v.toNat % 4096) ∧
      ((add16 x v f).2.c = true ↔ 65535 < x.toNat + v.toNat) :=
  ⟨toNat_trunc16 _, rfl, rfl, decide_eq_true_iff, decide_eq_true_iff⟩

theorem signed8_eq_toInt : ∀ e : Byte, signed8 e = e.toInt := by decide

/-- `AddSP(e)` (41_alu16.md rule R207). -/
theorem addSP_spec (sp : Word) (e : Byte) :
    ((addSP sp e).1.toNat : Int) = (sp.toNat + e.toInt) % 65536 ∧ (addSP sp e).2.z = false ∧
      (addSP sp e).2.n = false ∧
      ((addSP sp e).2.h = true ↔ 15 < sp.toNat % 16 + e.toNat % 16) ∧
      ((addSP sp e).2.c = true ↔ 255 < sp.toNat % 256 + e.toNat) :=
  ⟨signed8_eq_toInt e ▸ toNat_trunc16_int _, rfl, rfl, decide_eq_true_iff, decide_eq_true_iff⟩

/-! ### Rotates and shifts: the result and the bit that falls out, as numbers (43_rotate_shift.md
rule R240) -/

theorem rotRL_spec : ∀ (v : Byte) (cin : Bool),
    (rotRL v cin).1.toNat = (2 * v.toNat + cin.toNat) % 256 ∧
      (rotRL v cin).2.toNat = v.toNat / 128 := by decide

theorem rotRLC_spec : ∀ v : Byte,
    (rotRLC v).1.toNat = (2 * v.toNat + v.toNat / 128) % 256 ∧
      (rotRLC v).2.toNat = v.toNat / 128 := by decide

theorem rotRR_spec : ∀ (v : Byte) (cin : Bool),
    (rotRR v cin).1.toNat = 128 * cin.toNat + v.toNat / 2 ∧
      (rotRR v cin).2.toNat = v.toNat % 2 := by decide

theorem rotRRC_spec : ∀ v : Byte,
    (rotRRC v).1.toNat = 128 * (v.toNat % 2) + v.toNat / 2 ∧
      (rotRRC v).2.toNat = v.toNat % 2 := by decide

theorem shiftSLA_spec : ∀ v : Byte,
    (shiftSLA v).1.toNat = 2 * v.toNat % 256 ∧ (shiftSLA v).2.toNat = v.toNat / 128 := by decide

theorem shiftSRA_spec : ∀ v : Byte,
    (shiftSRA v).1.toNat = 128 * (v.toNat / 128) + v.toNat / 2 ∧
      (shiftSRA v).2.toNat = v.toNat % 2 := by decide

theorem shiftSRL_spec : ∀ v : Byte,
    (shiftSRL v).1.toNat = v.toNat / 2 ∧ (shiftSRL v).2.toNat = v.toNat % 2 := by decide

/-! ### Bits and nibbles -/

/-- `SWAP` (42_bit.md rule R226). -/
theorem swap8_spec : ∀ v : Byte,
    (swap8 v).1.toNat = 16 * (v.toNat % 16) + v.toNat / 16 ∧
      ((swap8 v).2.z = true ↔ v = 0) ∧ (swap8 v).2.n = false ∧ (swap8 v).2.h = false ∧
      (swap8 v).2.c = false := by decide

theorem getLsbD_bitMask (u : BitVec 3) (k : Nat) :
    (bitMask u).getLsbD k = decide (k = u.toNat) := by
  have hu := u.isLt
  by_cases h : k = u.toNat <;> simp [bitMask, BitVec.getLsbD_shiftLeft, h] <;> omega

/-- `RES` (42_bit.md rule R222). -/
theorem getLsbD_res8 (u : BitVec 3) (v : Byte) (k : Nat) (hk : k < 8) :
    (res8 u v).getLsbD k = if k = u.toNat then false else v.getLsbD k := by
  rw [res8, BitVec.getLsbD_and, BitVec.getLsbD_not, getLsbD_bitMask u k]
  by_cases h : k = u.toNat <;> simp [h, hk]

/-- `SET` (42_bit.md rule R224). -/
theorem getLsbD_set8 (u : BitVec 3) (v : Byte) (k : Nat) :
    (set8 u v).getLsbD k = if k = u.toNat then true else v.getLsbD k := by
  rw [set8, BitVec.getLsbD_or, getLsbD_bitMask u k]
  by_cases h : k = u.toNat <;> simp [h]

/-- `BIT` (42_bit.md rule R220). -/
theorem bitFlags_spec (u : BitVec 3) (v : Byte) (f : Flags) :
    ((bitFlags u v f).z = true ↔ v.toNat / 2 ^ u.toNat % 2 = 0) ∧ (bitFlags u v f).n = false ∧
      (bitFlags u v f).h = true ∧ (bitFlags u v f).c = f.c := by
  simp [bitFlags, BitVec.getLsbD, Nat.testBit_eq_decide_div_mod_eq]

/-! ### Decimal adjust -/

/-- `DAA` (47_misc.md rule R364). -/
theorem daa8_spec (a : Byte) (z n h c : Bool) :
    let low := h = true ∨ n = false ∧ 9 < a.toNat % 16
    let high := c = true ∨ n = false ∧ 0x99 < a.toNat
    let adj := (if low then 0x06 else 0) + (if high then 0x60 else 0)
    let p := daa8 a { z := z, n := n, h := h, c := c }
    p.1.toNat = (if n = true then (a.toNat + 256 - adj) % 256 else (a.toNat + adj) % 256) ∧
      (p.2.z = true ↔ p.1 = 0) ∧ p.2.n = n ∧ p.2.h = false ∧ (p.2.c = true ↔ high) := by
  revert a z n h c
  decide

end Sys2Proof.Machine
end

