-- ==== Sys2Proof/Laws/Memory.lean ====
section
/-! SUPPORT. The laws of memory: a read after a write, and the canonical form, which every memory
operation keeps. -/

namespace Sys2Proof.Machine

theorem memGet_memErase (m : Memory) (a b : Nat) :
    memGet (memErase m a) b = if b = a then unlistedByte else memGet m b := by
  induction m with
  | nil => simp [memErase, memGet]
  | cons cell rest ih =>
    by_cases h : cell.1 = a <;> by_cases hb : cell.1 = b <;> by_cases hab : b = a <;>
      simp_all [memErase, memGet]

theorem memGet_memInsert (m : Memory) (a b : Nat) (v : Byte) (h : ∀ cell ∈ m, cell.1 ≠ a) :
    memGet (memInsert m a v) b = if b = a then v else memGet m b := by
  induction m with
  | nil => simp [memInsert, memGet, eq_comm]
  | cons cell rest ih =>
    have hc : cell.1 ≠ a := h cell (by simp)
    have ih := ih fun x hx => h x (by simp [hx])
    by_cases hlt : a < cell.1
    · rw [memInsert, if_pos hlt, memGet]
      by_cases hab : b = a
      · simp [hab]
      · rw [if_neg (Ne.symm hab), if_neg hab]
    · rw [memInsert, if_neg hlt, memGet, memGet, ih]
      by_cases hb : cell.1 = b
      · rw [if_pos hb, if_pos hb, if_neg (hb ▸ hc)]
      · rw [if_neg hb, if_neg hb]

theorem mem_memErase (m : Memory) (a : Nat) (cell : Host.Cell) :
    cell ∈ memErase m a ↔ cell ∈ m ∧ cell.1 ≠ a := by
  induction m with
  | nil => simp [memErase]
  | cons x rest ih =>
    by_cases h : x.1 = a
    · simp only [memErase, h, if_true, ih, List.mem_cons]
      constructor
      · rintro ⟨h1, h2⟩; exact ⟨.inr h1, h2⟩
      · rintro ⟨rfl | h1, h2⟩
        · exact absurd h h2
        · exact ⟨h1, h2⟩
    · simp only [memErase, h, if_false, List.mem_cons, ih]
      constructor
      · rintro (rfl | ⟨h1, h2⟩)
        · exact ⟨.inl rfl, h⟩
        · exact ⟨.inr h1, h2⟩
      · rintro ⟨rfl | h1, h2⟩
        · exact .inl rfl
        · exact .inr ⟨h1, h2⟩

theorem mem_memInsert (m : Memory) (a : Nat) (v : Byte) (cell : Host.Cell) :
    cell ∈ memInsert m a v ↔ cell = (a, v) ∨ cell ∈ m := by
  induction m with
  | nil => simp [memInsert]
  | cons x rest ih =>
    by_cases h : a < x.1
    · simp [memInsert, h]
    · simp [memInsert, h, ih, or_left_comm]

/-- A read after a write gives the value written at the address, and what it gave before at every
other address. -/
@[simp] theorem memGet_memSet (m : Memory) (a b : Nat) (v : Byte) :
    memGet (memSet m a v) b = if b = a then v else memGet m b := by
  by_cases hv : v = unlistedByte
  · simp [memSet, hv, memGet_memErase]
  · rw [memSet, if_neg hv, memGet_memInsert _ _ _ _ fun c hc => ((mem_memErase m a c).mp hc).2,
      memGet_memErase]
    by_cases h : b = a <;> simp [h]

theorem memErase_pairwise (m : Memory) (a : Nat) (h : m.Pairwise fun x y => x.1 < y.1) :
    (memErase m a).Pairwise fun x y => x.1 < y.1 := by
  induction m with
  | nil => simp [memErase]
  | cons cell rest ih =>
    rw [List.pairwise_cons] at h
    by_cases hc : cell.1 = a
    · simpa [memErase, hc] using ih h.2
    · rw [memErase, if_neg hc, List.pairwise_cons]
      exact ⟨fun x hx => h.1 x ((mem_memErase rest a x).mp hx).1, ih h.2⟩

theorem memInsert_pairwise (m : Memory) (a : Nat) (v : Byte)
    (h : m.Pairwise fun x y => x.1 < y.1) (hne : ∀ cell ∈ m, cell.1 ≠ a) :
    (memInsert m a v).Pairwise fun x y => x.1 < y.1 := by
  induction m with
  | nil => simp [memInsert]
  | cons cell rest ih =>
    rw [List.pairwise_cons] at h
    have hc := hne cell (by simp)
    by_cases hlt : a < cell.1
    · rw [memInsert, if_pos hlt, List.pairwise_cons, List.pairwise_cons]
      refine ⟨fun x hx => ?_, h⟩
      rcases List.mem_cons.mp hx with rfl | hx
      · exact hlt
      · exact hlt.trans (h.1 x hx)
    · rw [memInsert, if_neg hlt, List.pairwise_cons]
      refine ⟨fun x hx => ?_, ih h.2 fun x hx => hne x (by simp [hx])⟩
      rcases (mem_memInsert rest a v x).mp hx with rfl | hx
      · simp only; omega
      · exact h.1 x hx

/-- The memory operation keeps the canonical form. -/
theorem memSet_wf (m : Memory) (a : Nat) (v : Byte) (ha : a < 65536) (h : Memory.wf m) :
    Memory.wf (memSet m a v) := by
  obtain ⟨hp, hc⟩ := h
  have he : Memory.wf (memErase m a) :=
    ⟨memErase_pairwise m a hp, fun x hx => hc x ((mem_memErase m a x).mp hx).1⟩
  by_cases hv : v = unlistedByte
  · rwa [memSet, if_pos hv]
  · rw [memSet, if_neg hv]
    refine ⟨memInsert_pairwise _ _ _ he.1 fun c hx => ((mem_memErase m a c).mp hx).2, ?_⟩
    intro x hx
    rcases (mem_memInsert _ _ _ x).mp hx with rfl | hx
    · exact ⟨ha, hv⟩
    · exact he.2 x hx

/-- The memory of the state after reset has the canonical form. -/
theorem reset_mem_wf : Memory.wf State.reset.mem := by decide

end Sys2Proof.Machine
end

