-- ==== Sys2Proof/Laws/State.lean ====
section
/-! SUPPORT. One lemma per field per update of the state, so that no later proof unfolds a record
update. What a 16-bit access stores, and what the devices see of it, is in `Laws/Ops.lean`. -/

namespace Sys2Proof.Machine

@[simp] theorem storeByte_a (s : State) (x : Word) (v : Byte) :
    (storeByte s x v).a = s.a := rfl

@[simp] theorem storeByte_b (s : State) (x : Word) (v : Byte) :
    (storeByte s x v).b = s.b := rfl

@[simp] theorem storeByte_c (s : State) (x : Word) (v : Byte) :
    (storeByte s x v).c = s.c := rfl

@[simp] theorem storeByte_d (s : State) (x : Word) (v : Byte) :
    (storeByte s x v).d = s.d := rfl

@[simp] theorem storeByte_e (s : State) (x : Word) (v : Byte) :
    (storeByte s x v).e = s.e := rfl

@[simp] theorem storeByte_h (s : State) (x : Word) (v : Byte) :
    (storeByte s x v).h = s.h := rfl

@[simp] theorem storeByte_l (s : State) (x : Word) (v : Byte) :
    (storeByte s x v).l = s.l := rfl

@[simp] theorem storeByte_f (s : State) (x : Word) (v : Byte) :
    (storeByte s x v).f = s.f := rfl

@[simp] theorem storeByte_sp (s : State) (x : Word) (v : Byte) :
    (storeByte s x v).sp = s.sp := rfl

@[simp] theorem storeByte_pc (s : State) (x : Word) (v : Byte) :
    (storeByte s x v).pc = s.pc := rfl

@[simp] theorem storeByte_ime (s : State) (x : Word) (v : Byte) :
    (storeByte s x v).ime = s.ime := rfl

@[simp] theorem storeByte_eiPending (s : State) (x : Word) (v : Byte) :
    (storeByte s x v).eiPending = s.eiPending := rfl

@[simp] theorem storeByte_mode (s : State) (x : Word) (v : Byte) :
    (storeByte s x v).mode = s.mode := rfl

@[simp] theorem storeByte_haltBug (s : State) (x : Word) (v : Byte) :
    (storeByte s x v).haltBug = s.haltBug := rfl

@[simp] theorem storeByte_mem (s : State) (x : Word) (v : Byte) :
    (storeByte s x v).mem = memSet s.mem x.toNat v := rfl

@[simp] theorem storeByte_devices (s : State) (x : Word) (v : Byte) :
    (storeByte s x v).devices = s.devices := rfl

@[simp] theorem storeByte_params (s : State) (x : Word) (v : Byte) :
    (storeByte s x v).params = s.params := rfl

@[simp] theorem memRead_a (s : State) (x : Word) :
    (memRead s x).2.a = s.a := rfl

@[simp] theorem memRead_b (s : State) (x : Word) :
    (memRead s x).2.b = s.b := rfl

@[simp] theorem memRead_c (s : State) (x : Word) :
    (memRead s x).2.c = s.c := rfl

@[simp] theorem memRead_d (s : State) (x : Word) :
    (memRead s x).2.d = s.d := rfl

@[simp] theorem memRead_e (s : State) (x : Word) :
    (memRead s x).2.e = s.e := rfl

@[simp] theorem memRead_h (s : State) (x : Word) :
    (memRead s x).2.h = s.h := rfl

@[simp] theorem memRead_l (s : State) (x : Word) :
    (memRead s x).2.l = s.l := rfl

@[simp] theorem memRead_f (s : State) (x : Word) :
    (memRead s x).2.f = s.f := rfl

@[simp] theorem memRead_sp (s : State) (x : Word) :
    (memRead s x).2.sp = s.sp := rfl

@[simp] theorem memRead_pc (s : State) (x : Word) :
    (memRead s x).2.pc = s.pc := rfl

@[simp] theorem memRead_ime (s : State) (x : Word) :
    (memRead s x).2.ime = s.ime := rfl

@[simp] theorem memRead_eiPending (s : State) (x : Word) :
    (memRead s x).2.eiPending = s.eiPending := rfl

@[simp] theorem memRead_mode (s : State) (x : Word) :
    (memRead s x).2.mode = s.mode := rfl

@[simp] theorem memRead_haltBug (s : State) (x : Word) :
    (memRead s x).2.haltBug = s.haltBug := rfl

@[simp] theorem memRead_mem (s : State) (x : Word) :
    (memRead s x).2.mem = s.mem := rfl

@[simp] theorem memRead_devices (s : State) (x : Word) :
    (memRead s x).2.devices = s.params.platform.note s.devices (.read x) := rfl

@[simp] theorem memRead_params (s : State) (x : Word) :
    (memRead s x).2.params = s.params := rfl

@[simp] theorem memWrite_a (s : State) (x : Word) (v : Byte) :
    (memWrite s x v).a = s.a := rfl

@[simp] theorem memWrite_b (s : State) (x : Word) (v : Byte) :
    (memWrite s x v).b = s.b := rfl

@[simp] theorem memWrite_c (s : State) (x : Word) (v : Byte) :
    (memWrite s x v).c = s.c := rfl

@[simp] theorem memWrite_d (s : State) (x : Word) (v : Byte) :
    (memWrite s x v).d = s.d := rfl

@[simp] theorem memWrite_e (s : State) (x : Word) (v : Byte) :
    (memWrite s x v).e = s.e := rfl

@[simp] theorem memWrite_h (s : State) (x : Word) (v : Byte) :
    (memWrite s x v).h = s.h := rfl

@[simp] theorem memWrite_l (s : State) (x : Word) (v : Byte) :
    (memWrite s x v).l = s.l := rfl

@[simp] theorem memWrite_f (s : State) (x : Word) (v : Byte) :
    (memWrite s x v).f = s.f := rfl

@[simp] theorem memWrite_sp (s : State) (x : Word) (v : Byte) :
    (memWrite s x v).sp = s.sp := rfl

@[simp] theorem memWrite_pc (s : State) (x : Word) (v : Byte) :
    (memWrite s x v).pc = s.pc := rfl

@[simp] theorem memWrite_ime (s : State) (x : Word) (v : Byte) :
    (memWrite s x v).ime = s.ime := rfl

@[simp] theorem memWrite_eiPending (s : State) (x : Word) (v : Byte) :
    (memWrite s x v).eiPending = s.eiPending := rfl

@[simp] theorem memWrite_mode (s : State) (x : Word) (v : Byte) :
    (memWrite s x v).mode = s.mode := rfl

@[simp] theorem memWrite_haltBug (s : State) (x : Word) (v : Byte) :
    (memWrite s x v).haltBug = s.haltBug := rfl

@[simp] theorem memWrite_mem (s : State) (x : Word) (v : Byte) :
    (memWrite s x v).mem = if (kindAt s x).isRam then memSet s.mem x.toNat v else s.mem := rfl

@[simp] theorem memWrite_devices (s : State) (x : Word) (v : Byte) :
    (memWrite s x v).devices = s.params.platform.note s.devices (.write x v) := rfl

@[simp] theorem memWrite_params (s : State) (x : Word) (v : Byte) :
    (memWrite s x v).params = s.params := rfl

@[simp] theorem jumpTo_a (s : State) (x : Word) :
    (jumpTo s x).a = s.a := rfl

@[simp] theorem jumpTo_b (s : State) (x : Word) :
    (jumpTo s x).b = s.b := rfl

@[simp] theorem jumpTo_c (s : State) (x : Word) :
    (jumpTo s x).c = s.c := rfl

@[simp] theorem jumpTo_d (s : State) (x : Word) :
    (jumpTo s x).d = s.d := rfl

@[simp] theorem jumpTo_e (s : State) (x : Word) :
    (jumpTo s x).e = s.e := rfl

@[simp] theorem jumpTo_h (s : State) (x : Word) :
    (jumpTo s x).h = s.h := rfl

@[simp] theorem jumpTo_l (s : State) (x : Word) :
    (jumpTo s x).l = s.l := rfl

@[simp] theorem jumpTo_f (s : State) (x : Word) :
    (jumpTo s x).f = s.f := rfl

@[simp] theorem jumpTo_sp (s : State) (x : Word) :
    (jumpTo s x).sp = s.sp := rfl

@[simp] theorem jumpTo_pc (s : State) (x : Word) :
    (jumpTo s x).pc = x := rfl

@[simp] theorem jumpTo_ime (s : State) (x : Word) :
    (jumpTo s x).ime = s.ime := rfl

@[simp] theorem jumpTo_eiPending (s : State) (x : Word) :
    (jumpTo s x).eiPending = s.eiPending := rfl

@[simp] theorem jumpTo_mode (s : State) (x : Word) :
    (jumpTo s x).mode = s.mode := rfl

@[simp] theorem jumpTo_haltBug (s : State) (x : Word) :
    (jumpTo s x).haltBug = s.haltBug := rfl

@[simp] theorem jumpTo_mem (s : State) (x : Word) :
    (jumpTo s x).mem = s.mem := rfl

@[simp] theorem jumpTo_devices (s : State) (x : Word) :
    (jumpTo s x).devices = s.devices := rfl

@[simp] theorem jumpTo_params (s : State) (x : Word) :
    (jumpTo s x).params = s.params := rfl

@[simp] theorem wake_a (s : State) :
    (wake s).a = s.a := rfl

@[simp] theorem wake_b (s : State) :
    (wake s).b = s.b := rfl

@[simp] theorem wake_c (s : State) :
    (wake s).c = s.c := rfl

@[simp] theorem wake_d (s : State) :
    (wake s).d = s.d := rfl

@[simp] theorem wake_e (s : State) :
    (wake s).e = s.e := rfl

@[simp] theorem wake_h (s : State) :
    (wake s).h = s.h := rfl

@[simp] theorem wake_l (s : State) :
    (wake s).l = s.l := rfl

@[simp] theorem wake_f (s : State) :
    (wake s).f = s.f := rfl

@[simp] theorem wake_sp (s : State) :
    (wake s).sp = s.sp := rfl

@[simp] theorem wake_pc (s : State) :
    (wake s).pc = s.pc := rfl

@[simp] theorem wake_ime (s : State) :
    (wake s).ime = s.ime := rfl

@[simp] theorem wake_eiPending (s : State) :
    (wake s).eiPending = s.eiPending := rfl

@[simp] theorem wake_mode (s : State) :
    (wake s).mode = .running := rfl

@[simp] theorem wake_haltBug (s : State) :
    (wake s).haltBug = s.haltBug := rfl

@[simp] theorem wake_mem (s : State) :
    (wake s).mem = s.mem := rfl

@[simp] theorem wake_devices (s : State) :
    (wake s).devices = s.devices := rfl

@[simp] theorem wake_params (s : State) :
    (wake s).params = s.params := rfl

@[simp] theorem setAFlags_a (s : State) (p : Byte × Flags) :
    (setAFlags s p).a = p.1 := rfl

@[simp] theorem setAFlags_b (s : State) (p : Byte × Flags) :
    (setAFlags s p).b = s.b := rfl

@[simp] theorem setAFlags_c (s : State) (p : Byte × Flags) :
    (setAFlags s p).c = s.c := rfl

@[simp] theorem setAFlags_d (s : State) (p : Byte × Flags) :
    (setAFlags s p).d = s.d := rfl

@[simp] theorem setAFlags_e (s : State) (p : Byte × Flags) :
    (setAFlags s p).e = s.e := rfl

@[simp] theorem setAFlags_h (s : State) (p : Byte × Flags) :
    (setAFlags s p).h = s.h := rfl

@[simp] theorem setAFlags_l (s : State) (p : Byte × Flags) :
    (setAFlags s p).l = s.l := rfl

@[simp] theorem setAFlags_f (s : State) (p : Byte × Flags) :
    (setAFlags s p).f = p.2 := rfl

@[simp] theorem setAFlags_sp (s : State) (p : Byte × Flags) :
    (setAFlags s p).sp = s.sp := rfl

@[simp] theorem setAFlags_pc (s : State) (p : Byte × Flags) :
    (setAFlags s p).pc = s.pc := rfl

@[simp] theorem setAFlags_ime (s : State) (p : Byte × Flags) :
    (setAFlags s p).ime = s.ime := rfl

@[simp] theorem setAFlags_eiPending (s : State) (p : Byte × Flags) :
    (setAFlags s p).eiPending = s.eiPending := rfl

@[simp] theorem setAFlags_mode (s : State) (p : Byte × Flags) :
    (setAFlags s p).mode = s.mode := rfl

@[simp] theorem setAFlags_haltBug (s : State) (p : Byte × Flags) :
    (setAFlags s p).haltBug = s.haltBug := rfl

@[simp] theorem setAFlags_mem (s : State) (p : Byte × Flags) :
    (setAFlags s p).mem = s.mem := rfl

@[simp] theorem setAFlags_devices (s : State) (p : Byte × Flags) :
    (setAFlags s p).devices = s.devices := rfl

@[simp] theorem setAFlags_params (s : State) (p : Byte × Flags) :
    (setAFlags s p).params = s.params := rfl

@[simp] theorem setAF_a (s : State) (w : Word) :
    (setAF s w).a = hiByte w := rfl

@[simp] theorem setAF_b (s : State) (w : Word) :
    (setAF s w).b = s.b := rfl

@[simp] theorem setAF_c (s : State) (w : Word) :
    (setAF s w).c = s.c := rfl

@[simp] theorem setAF_d (s : State) (w : Word) :
    (setAF s w).d = s.d := rfl

@[simp] theorem setAF_e (s : State) (w : Word) :
    (setAF s w).e = s.e := rfl

@[simp] theorem setAF_h (s : State) (w : Word) :
    (setAF s w).h = s.h := rfl

@[simp] theorem setAF_l (s : State) (w : Word) :
    (setAF s w).l = s.l := rfl

@[simp] theorem setAF_f (s : State) (w : Word) :
    (setAF s w).f = flagsOfByte (loByte w) := rfl

@[simp] theorem setAF_sp (s : State) (w : Word) :
    (setAF s w).sp = s.sp := rfl

@[simp] theorem setAF_pc (s : State) (w : Word) :
    (setAF s w).pc = s.pc := rfl

@[simp] theorem setAF_ime (s : State) (w : Word) :
    (setAF s w).ime = s.ime := rfl

@[simp] theorem setAF_eiPending (s : State) (w : Word) :
    (setAF s w).eiPending = s.eiPending := rfl

@[simp] theorem setAF_mode (s : State) (w : Word) :
    (setAF s w).mode = s.mode := rfl

@[simp] theorem setAF_haltBug (s : State) (w : Word) :
    (setAF s w).haltBug = s.haltBug := rfl

@[simp] theorem setAF_mem (s : State) (w : Word) :
    (setAF s w).mem = s.mem := rfl

@[simp] theorem setAF_devices (s : State) (w : Word) :
    (setAF s w).devices = s.devices := rfl

@[simp] theorem setAF_params (s : State) (w : Word) :
    (setAF s w).params = s.params := rfl

@[simp] theorem setHL_a (s : State) (w : Word) :
    (setHL s w).a = s.a := rfl

@[simp] theorem setHL_b (s : State) (w : Word) :
    (setHL s w).b = s.b := rfl

@[simp] theorem setHL_c (s : State) (w : Word) :
    (setHL s w).c = s.c := rfl

@[simp] theorem setHL_d (s : State) (w : Word) :
    (setHL s w).d = s.d := rfl

@[simp] theorem setHL_e (s : State) (w : Word) :
    (setHL s w).e = s.e := rfl

@[simp] theorem setHL_h (s : State) (w : Word) :
    (setHL s w).h = hiByte w := rfl

@[simp] theorem setHL_l (s : State) (w : Word) :
    (setHL s w).l = loByte w := rfl

@[simp] theorem setHL_f (s : State) (w : Word) :
    (setHL s w).f = s.f := rfl

@[simp] theorem setHL_sp (s : State) (w : Word) :
    (setHL s w).sp = s.sp := rfl

@[simp] theorem setHL_pc (s : State) (w : Word) :
    (setHL s w).pc = s.pc := rfl

@[simp] theorem setHL_ime (s : State) (w : Word) :
    (setHL s w).ime = s.ime := rfl

@[simp] theorem setHL_eiPending (s : State) (w : Word) :
    (setHL s w).eiPending = s.eiPending := rfl

@[simp] theorem setHL_mode (s : State) (w : Word) :
    (setHL s w).mode = s.mode := rfl

@[simp] theorem setHL_haltBug (s : State) (w : Word) :
    (setHL s w).haltBug = s.haltBug := rfl

@[simp] theorem setHL_mem (s : State) (w : Word) :
    (setHL s w).mem = s.mem := rfl

@[simp] theorem setHL_devices (s : State) (w : Word) :
    (setHL s w).devices = s.devices := rfl

@[simp] theorem setHL_params (s : State) (w : Word) :
    (setHL s w).params = s.params := rfl

@[simp] theorem setHLFlags_a (s : State) (p : Word × Flags) :
    (setHLFlags s p).a = s.a := rfl

@[simp] theorem setHLFlags_b (s : State) (p : Word × Flags) :
    (setHLFlags s p).b = s.b := rfl

@[simp] theorem setHLFlags_c (s : State) (p : Word × Flags) :
    (setHLFlags s p).c = s.c := rfl

@[simp] theorem setHLFlags_d (s : State) (p : Word × Flags) :
    (setHLFlags s p).d = s.d := rfl

@[simp] theorem setHLFlags_e (s : State) (p : Word × Flags) :
    (setHLFlags s p).e = s.e := rfl

@[simp] theorem setHLFlags_h (s : State) (p : Word × Flags) :
    (setHLFlags s p).h = hiByte p.1 := rfl

@[simp] theorem setHLFlags_l (s : State) (p : Word × Flags) :
    (setHLFlags s p).l = loByte p.1 := rfl

@[simp] theorem setHLFlags_f (s : State) (p : Word × Flags) :
    (setHLFlags s p).f = p.2 := rfl

@[simp] theorem setHLFlags_sp (s : State) (p : Word × Flags) :
    (setHLFlags s p).sp = s.sp := rfl

@[simp] theorem setHLFlags_pc (s : State) (p : Word × Flags) :
    (setHLFlags s p).pc = s.pc := rfl

@[simp] theorem setHLFlags_ime (s : State) (p : Word × Flags) :
    (setHLFlags s p).ime = s.ime := rfl

@[simp] theorem setHLFlags_eiPending (s : State) (p : Word × Flags) :
    (setHLFlags s p).eiPending = s.eiPending := rfl

@[simp] theorem setHLFlags_mode (s : State) (p : Word × Flags) :
    (setHLFlags s p).mode = s.mode := rfl

@[simp] theorem setHLFlags_haltBug (s : State) (p : Word × Flags) :
    (setHLFlags s p).haltBug = s.haltBug := rfl

@[simp] theorem setHLFlags_mem (s : State) (p : Word × Flags) :
    (setHLFlags s p).mem = s.mem := rfl

@[simp] theorem setHLFlags_devices (s : State) (p : Word × Flags) :
    (setHLFlags s p).devices = s.devices := rfl

@[simp] theorem setHLFlags_params (s : State) (p : Word × Flags) :
    (setHLFlags s p).params = s.params := rfl

@[simp] theorem push8_a (s : State) (v : Byte) :
    (push8 s v).a = s.a := rfl

@[simp] theorem push8_b (s : State) (v : Byte) :
    (push8 s v).b = s.b := rfl

@[simp] theorem push8_c (s : State) (v : Byte) :
    (push8 s v).c = s.c := rfl

@[simp] theorem push8_d (s : State) (v : Byte) :
    (push8 s v).d = s.d := rfl

@[simp] theorem push8_e (s : State) (v : Byte) :
    (push8 s v).e = s.e := rfl

@[simp] theorem push8_h (s : State) (v : Byte) :
    (push8 s v).h = s.h := rfl

@[simp] theorem push8_l (s : State) (v : Byte) :
    (push8 s v).l = s.l := rfl

@[simp] theorem push8_f (s : State) (v : Byte) :
    (push8 s v).f = s.f := rfl

@[simp] theorem push8_sp (s : State) (v : Byte) :
    (push8 s v).sp = s.sp - 1 := rfl

@[simp] theorem push8_pc (s : State) (v : Byte) :
    (push8 s v).pc = s.pc := rfl

@[simp] theorem push8_ime (s : State) (v : Byte) :
    (push8 s v).ime = s.ime := rfl

@[simp] theorem push8_eiPending (s : State) (v : Byte) :
    (push8 s v).eiPending = s.eiPending := rfl

@[simp] theorem push8_mode (s : State) (v : Byte) :
    (push8 s v).mode = s.mode := rfl

@[simp] theorem push8_haltBug (s : State) (v : Byte) :
    (push8 s v).haltBug = s.haltBug := rfl

@[simp] theorem push8_mem (s : State) (v : Byte) :
    (push8 s v).mem =
      if (kindAt s (s.sp - 1)).isRam then memSet s.mem (s.sp - 1).toNat v else s.mem := rfl

@[simp] theorem push8_devices (s : State) (v : Byte) :
    (push8 s v).devices = s.params.platform.note s.devices (.write (s.sp - 1) v) := rfl

@[simp] theorem push8_params (s : State) (v : Byte) :
    (push8 s v).params = s.params := rfl

@[simp] theorem pop8_a (s : State) :
    (pop8 s).2.a = s.a := rfl

@[simp] theorem pop8_b (s : State) :
    (pop8 s).2.b = s.b := rfl

@[simp] theorem pop8_c (s : State) :
    (pop8 s).2.c = s.c := rfl

@[simp] theorem pop8_d (s : State) :
    (pop8 s).2.d = s.d := rfl

@[simp] theorem pop8_e (s : State) :
    (pop8 s).2.e = s.e := rfl

@[simp] theorem pop8_h (s : State) :
    (pop8 s).2.h = s.h := rfl

@[simp] theorem pop8_l (s : State) :
    (pop8 s).2.l = s.l := rfl

@[simp] theorem pop8_f (s : State) :
    (pop8 s).2.f = s.f := rfl

@[simp] theorem pop8_sp (s : State) :
    (pop8 s).2.sp = s.sp + 1 := rfl

@[simp] theorem pop8_pc (s : State) :
    (pop8 s).2.pc = s.pc := rfl

@[simp] theorem pop8_ime (s : State) :
    (pop8 s).2.ime = s.ime := rfl

@[simp] theorem pop8_eiPending (s : State) :
    (pop8 s).2.eiPending = s.eiPending := rfl

@[simp] theorem pop8_mode (s : State) :
    (pop8 s).2.mode = s.mode := rfl

@[simp] theorem pop8_haltBug (s : State) :
    (pop8 s).2.haltBug = s.haltBug := rfl

@[simp] theorem pop8_mem (s : State) :
    (pop8 s).2.mem = s.mem := rfl

@[simp] theorem pop8_devices (s : State) :
    (pop8 s).2.devices = s.params.platform.note s.devices (.read s.sp) := rfl

@[simp] theorem pop8_params (s : State) :
    (pop8 s).2.params = s.params := rfl

@[simp] theorem write16_a (s : State) (x w : Word) :
    (write16 s x w).a = s.a := rfl

@[simp] theorem write16_b (s : State) (x w : Word) :
    (write16 s x w).b = s.b := rfl

@[simp] theorem write16_c (s : State) (x w : Word) :
    (write16 s x w).c = s.c := rfl

@[simp] theorem write16_d (s : State) (x w : Word) :
    (write16 s x w).d = s.d := rfl

@[simp] theorem write16_e (s : State) (x w : Word) :
    (write16 s x w).e = s.e := rfl

@[simp] theorem write16_h (s : State) (x w : Word) :
    (write16 s x w).h = s.h := rfl

@[simp] theorem write16_l (s : State) (x w : Word) :
    (write16 s x w).l = s.l := rfl

@[simp] theorem write16_f (s : State) (x w : Word) :
    (write16 s x w).f = s.f := rfl

@[simp] theorem write16_sp (s : State) (x w : Word) :
    (write16 s x w).sp = s.sp := rfl

@[simp] theorem write16_pc (s : State) (x w : Word) :
    (write16 s x w).pc = s.pc := rfl

@[simp] theorem write16_ime (s : State) (x w : Word) :
    (write16 s x w).ime = s.ime := rfl

@[simp] theorem write16_eiPending (s : State) (x w : Word) :
    (write16 s x w).eiPending = s.eiPending := rfl

@[simp] theorem write16_mode (s : State) (x w : Word) :
    (write16 s x w).mode = s.mode := rfl

@[simp] theorem write16_haltBug (s : State) (x w : Word) :
    (write16 s x w).haltBug = s.haltBug := rfl

@[simp] theorem write16_params (s : State) (x w : Word) :
    (write16 s x w).params = s.params := rfl

@[simp] theorem push16_a (s : State) (w : Word) :
    (push16 s w).a = s.a := rfl

@[simp] theorem push16_b (s : State) (w : Word) :
    (push16 s w).b = s.b := rfl

@[simp] theorem push16_c (s : State) (w : Word) :
    (push16 s w).c = s.c := rfl

@[simp] theorem push16_d (s : State) (w : Word) :
    (push16 s w).d = s.d := rfl

@[simp] theorem push16_e (s : State) (w : Word) :
    (push16 s w).e = s.e := rfl

@[simp] theorem push16_h (s : State) (w : Word) :
    (push16 s w).h = s.h := rfl

@[simp] theorem push16_l (s : State) (w : Word) :
    (push16 s w).l = s.l := rfl

@[simp] theorem push16_f (s : State) (w : Word) :
    (push16 s w).f = s.f := rfl

@[simp] theorem push16_sp (s : State) (w : Word) :
    (push16 s w).sp = s.sp - 1 - 1 := rfl

@[simp] theorem push16_pc (s : State) (w : Word) :
    (push16 s w).pc = s.pc := rfl

@[simp] theorem push16_ime (s : State) (w : Word) :
    (push16 s w).ime = s.ime := rfl

@[simp] theorem push16_eiPending (s : State) (w : Word) :
    (push16 s w).eiPending = s.eiPending := rfl

@[simp] theorem push16_mode (s : State) (w : Word) :
    (push16 s w).mode = s.mode := rfl

@[simp] theorem push16_haltBug (s : State) (w : Word) :
    (push16 s w).haltBug = s.haltBug := rfl

@[simp] theorem push16_params (s : State) (w : Word) :
    (push16 s w).params = s.params := rfl

@[simp] theorem pop16_a (s : State) :
    (pop16 s).2.a = s.a := rfl

@[simp] theorem pop16_b (s : State) :
    (pop16 s).2.b = s.b := rfl

@[simp] theorem pop16_c (s : State) :
    (pop16 s).2.c = s.c := rfl

@[simp] theorem pop16_d (s : State) :
    (pop16 s).2.d = s.d := rfl

@[simp] theorem pop16_e (s : State) :
    (pop16 s).2.e = s.e := rfl

@[simp] theorem pop16_h (s : State) :
    (pop16 s).2.h = s.h := rfl

@[simp] theorem pop16_l (s : State) :
    (pop16 s).2.l = s.l := rfl

@[simp] theorem pop16_f (s : State) :
    (pop16 s).2.f = s.f := rfl

@[simp] theorem pop16_sp (s : State) :
    (pop16 s).2.sp = s.sp + 1 + 1 := rfl

@[simp] theorem pop16_pc (s : State) :
    (pop16 s).2.pc = s.pc := rfl

@[simp] theorem pop16_ime (s : State) :
    (pop16 s).2.ime = s.ime := rfl

@[simp] theorem pop16_eiPending (s : State) :
    (pop16 s).2.eiPending = s.eiPending := rfl

@[simp] theorem pop16_mode (s : State) :
    (pop16 s).2.mode = s.mode := rfl

@[simp] theorem pop16_haltBug (s : State) :
    (pop16 s).2.haltBug = s.haltBug := rfl

@[simp] theorem pop16_mem (s : State) :
    (pop16 s).2.mem = s.mem := rfl

@[simp] theorem pop16_params (s : State) :
    (pop16 s).2.params = s.params := rfl

@[simp] theorem environmentMove_a (r : Byte) (s : State) :
    (environmentMove r s).a = s.a := by
  unfold environmentMove
  split <;> rfl

@[simp] theorem environmentMove_b (r : Byte) (s : State) :
    (environmentMove r s).b = s.b := by
  unfold environmentMove
  split <;> rfl

@[simp] theorem environmentMove_c (r : Byte) (s : State) :
    (environmentMove r s).c = s.c := by
  unfold environmentMove
  split <;> rfl

@[simp] theorem environmentMove_d (r : Byte) (s : State) :
    (environmentMove r s).d = s.d := by
  unfold environmentMove
  split <;> rfl

@[simp] theorem environmentMove_e (r : Byte) (s : State) :
    (environmentMove r s).e = s.e := by
  unfold environmentMove
  split <;> rfl

@[simp] theorem environmentMove_h (r : Byte) (s : State) :
    (environmentMove r s).h = s.h := by
  unfold environmentMove
  split <;> rfl

@[simp] theorem environmentMove_l (r : Byte) (s : State) :
    (environmentMove r s).l = s.l := by
  unfold environmentMove
  split <;> rfl

@[simp] theorem environmentMove_f (r : Byte) (s : State) :
    (environmentMove r s).f = s.f := by
  unfold environmentMove
  split <;> rfl

@[simp] theorem environmentMove_sp (r : Byte) (s : State) :
    (environmentMove r s).sp = s.sp := by
  unfold environmentMove
  split <;> rfl

@[simp] theorem environmentMove_pc (r : Byte) (s : State) :
    (environmentMove r s).pc = s.pc := by
  unfold environmentMove
  split <;> rfl

@[simp] theorem environmentMove_ime (r : Byte) (s : State) :
    (environmentMove r s).ime = s.ime := by
  unfold environmentMove
  split <;> rfl

@[simp] theorem environmentMove_eiPending (r : Byte) (s : State) :
    (environmentMove r s).eiPending = s.eiPending := by
  unfold environmentMove
  split <;> rfl

@[simp] theorem environmentMove_mode (r : Byte) (s : State) :
    (environmentMove r s).mode = s.mode := by
  unfold environmentMove
  split <;> rfl

@[simp] theorem environmentMove_haltBug (r : Byte) (s : State) :
    (environmentMove r s).haltBug = s.haltBug := by
  unfold environmentMove
  split <;> rfl

@[simp] theorem environmentMove_mem (r : Byte) (s : State) :
    (environmentMove r s).mem =
      if s.params.platform.raises then
        memSet s.mem ifAddr.toNat (storedByte s ifAddr ||| (r &&& 0x1F))
      else s.mem := by
  unfold environmentMove
  split <;> rfl

@[simp] theorem environmentMove_devices (r : Byte) (s : State) :
    (environmentMove r s).devices = s.devices := by
  unfold environmentMove
  split <;> rfl

@[simp] theorem environmentMove_params (r : Byte) (s : State) :
    (environmentMove r s).params = s.params := by
  unfold environmentMove
  split <;> rfl

@[simp] theorem deviceMove_a (k : Nat) (s : State) :
    (deviceMove k s).a = s.a := rfl

@[simp] theorem deviceMove_b (k : Nat) (s : State) :
    (deviceMove k s).b = s.b := rfl

@[simp] theorem deviceMove_c (k : Nat) (s : State) :
    (deviceMove k s).c = s.c := rfl

@[simp] theorem deviceMove_d (k : Nat) (s : State) :
    (deviceMove k s).d = s.d := rfl

@[simp] theorem deviceMove_e (k : Nat) (s : State) :
    (deviceMove k s).e = s.e := rfl

@[simp] theorem deviceMove_h (k : Nat) (s : State) :
    (deviceMove k s).h = s.h := rfl

@[simp] theorem deviceMove_l (k : Nat) (s : State) :
    (deviceMove k s).l = s.l := rfl

@[simp] theorem deviceMove_f (k : Nat) (s : State) :
    (deviceMove k s).f = s.f := rfl

@[simp] theorem deviceMove_sp (k : Nat) (s : State) :
    (deviceMove k s).sp = s.sp := rfl

@[simp] theorem deviceMove_pc (k : Nat) (s : State) :
    (deviceMove k s).pc = s.pc := rfl

@[simp] theorem deviceMove_ime (k : Nat) (s : State) :
    (deviceMove k s).ime = s.ime := rfl

@[simp] theorem deviceMove_eiPending (k : Nat) (s : State) :
    (deviceMove k s).eiPending = s.eiPending := rfl

@[simp] theorem deviceMove_mode (k : Nat) (s : State) :
    (deviceMove k s).mode = s.mode := rfl

@[simp] theorem deviceMove_haltBug (k : Nat) (s : State) :
    (deviceMove k s).haltBug = s.haltBug := rfl

@[simp] theorem deviceMove_mem (k : Nat) (s : State) :
    (deviceMove k s).mem = s.mem := rfl

@[simp] theorem deviceMove_devices (k : Nat) (s : State) :
    (deviceMove k s).devices = s.params.platform.note s.devices (.change k) := rfl

@[simp] theorem deviceMove_params (k : Nat) (s : State) :
    (deviceMove k s).params = s.params := rfl

@[simp] theorem setR8_f (s : State) (r : R8) (v : Byte) :
    (setR8 s r v).f = s.f := by cases r <;> rfl

@[simp] theorem setR8_sp (s : State) (r : R8) (v : Byte) :
    (setR8 s r v).sp = s.sp := by cases r <;> rfl

@[simp] theorem setR8_pc (s : State) (r : R8) (v : Byte) :
    (setR8 s r v).pc = s.pc := by cases r <;> rfl

@[simp] theorem setR8_ime (s : State) (r : R8) (v : Byte) :
    (setR8 s r v).ime = s.ime := by cases r <;> rfl

@[simp] theorem setR8_eiPending (s : State) (r : R8) (v : Byte) :
    (setR8 s r v).eiPending = s.eiPending := by cases r <;> rfl

@[simp] theorem setR8_mode (s : State) (r : R8) (v : Byte) :
    (setR8 s r v).mode = s.mode := by cases r <;> rfl

@[simp] theorem setR8_haltBug (s : State) (r : R8) (v : Byte) :
    (setR8 s r v).haltBug = s.haltBug := by cases r <;> rfl

@[simp] theorem setR8_mem (s : State) (r : R8) (v : Byte) :
    (setR8 s r v).mem = s.mem := by cases r <;> rfl

@[simp] theorem setR8_devices (s : State) (r : R8) (v : Byte) :
    (setR8 s r v).devices = s.devices := by cases r <;> rfl

@[simp] theorem setR8_params (s : State) (r : R8) (v : Byte) :
    (setR8 s r v).params = s.params := by cases r <;> rfl

@[simp] theorem setR16_f (s : State) (p : R16) (w : Word) :
    (setR16 s p w).f = s.f := by cases p <;> rfl

@[simp] theorem setR16_sp (s : State) (p : R16) (w : Word) :
    (setR16 s p w).sp = s.sp := by cases p <;> rfl

@[simp] theorem setR16_pc (s : State) (p : R16) (w : Word) :
    (setR16 s p w).pc = s.pc := by cases p <;> rfl

@[simp] theorem setR16_ime (s : State) (p : R16) (w : Word) :
    (setR16 s p w).ime = s.ime := by cases p <;> rfl

@[simp] theorem setR16_eiPending (s : State) (p : R16) (w : Word) :
    (setR16 s p w).eiPending = s.eiPending := by cases p <;> rfl

@[simp] theorem setR16_mode (s : State) (p : R16) (w : Word) :
    (setR16 s p w).mode = s.mode := by cases p <;> rfl

@[simp] theorem setR16_haltBug (s : State) (p : R16) (w : Word) :
    (setR16 s p w).haltBug = s.haltBug := by cases p <;> rfl

@[simp] theorem setR16_mem (s : State) (p : R16) (w : Word) :
    (setR16 s p w).mem = s.mem := by cases p <;> rfl

@[simp] theorem setR16_devices (s : State) (p : R16) (w : Word) :
    (setR16 s p w).devices = s.devices := by cases p <;> rfl

@[simp] theorem setR16_params (s : State) (p : R16) (w : Word) :
    (setR16 s p w).params = s.params := by cases p <;> rfl

end Sys2Proof.Machine
end

