-- ==== Sys2Proof/Laws/Operands.lean ====
section
/-! SUPPORT. What reading a register, a pair or a byte of memory gives after each update. -/

namespace Sys2Proof.Machine

/-! ### Registers -/

/-- Reading a register after a write of one: the value written, or what the register held. -/
@[simp] theorem getR8_setR8 (s : State) (r q : R8) (v : Byte) :
    getR8 (setR8 s r v) q = if q = r then v else getR8 s q := by
  cases r <;> cases q <;> rfl

/-- Reading a pair after a write of one: the value written, or what the pair held. -/
@[simp] theorem getR16_setR16 (s : State) (p q : R16) (w : Word) :
    getR16 (setR16 s p w) q = if q = p then w else getR16 s q := by
  cases p <;> cases q <;> simp [getR16, setR16]

/-- A write of a pair writes its high half, its low half, and no other register. -/
theorem getR8_setR16 (s : State) (p : R16) (w : Word) (r : R8) :
    getR8 (setR16 s p w) r =
      match p, r with
      | .bc, .b | .de, .d | .hl, .h => hiByte w
      | .bc, .c | .de, .e | .hl, .l => loByte w
      | _, _ => getR8 s r := by
  cases p <;> cases r <;> rfl

@[simp] theorem getHL_setHL (s : State) (w : Word) : getHL (setHL s w) = w := by
  simp [getHL, setHL]

@[simp] theorem getR8_storeByte (s : State) (x : Word) (v : Byte) (r : R8) :
    getR8 (storeByte s x v) r = getR8 s r := by cases r <;> rfl

@[simp] theorem getR8_memRead (s : State) (x : Word) (r : R8) :
    getR8 (memRead s x).2 r = getR8 s r := by cases r <;> rfl

@[simp] theorem getR8_memWrite (s : State) (x : Word) (v : Byte) (r : R8) :
    getR8 (memWrite s x v) r = getR8 s r := by cases r <;> rfl

@[simp] theorem getR8_jumpTo (s : State) (x : Word) (r : R8) :
    getR8 (jumpTo s x) r = getR8 s r := by cases r <;> rfl

@[simp] theorem getR8_wake (s : State) (r : R8) : getR8 (wake s) r = getR8 s r := by
  cases r <;> rfl

@[simp] theorem getR8_push16 (s : State) (w : Word) (r : R8) :
    getR8 (push16 s w) r = getR8 s r := by cases r <;> rfl

@[simp] theorem getR8_pop16 (s : State) (r : R8) : getR8 (pop16 s).2 r = getR8 s r := by
  cases r <;> rfl

@[simp] theorem getR8_write16 (s : State) (x w : Word) (r : R8) :
    getR8 (write16 s x w) r = getR8 s r := by cases r <;> rfl

@[simp] theorem getR8_environmentMove (v : Byte) (s : State) (r : R8) :
    getR8 (environmentMove v s) r = getR8 s r := by cases r <;> simp [getR8]

@[simp] theorem getR8_deviceMove (k : Nat) (s : State) (r : R8) :
    getR8 (deviceMove k s) r = getR8 s r := by cases r <;> rfl

@[simp] theorem getR8_callTo (s : State) (x : Word) (r : R8) :
    getR8 (callTo s x) r = getR8 s r := by rw [callTo, getR8_jumpTo, getR8_push16]

@[simp] theorem getR8_returnFrom (s : State) (r : R8) : getR8 (returnFrom s) r = getR8 s r := by
  rw [returnFrom, getR8_jumpTo, getR8_pop16]

@[simp] theorem getR8_returnFromInterrupt (s : State) (r : R8) :
    getR8 (returnFromInterrupt s) r = getR8 s r := by
  rw [← getR8_returnFrom s r]; cases r <;> rfl

@[simp] theorem getR8_dispatch (src : Source) (s : State) (r : R8) :
    getR8 (dispatch src s) r = getR8 s r := by
  rw [dispatch, getR8_callTo, getR8_storeByte]; cases r <;> rfl

@[simp] theorem getHL_memWrite (s : State) (x : Word) (v : Byte) :
    getHL (memWrite s x v) = getHL s := rfl

@[simp] theorem getHL_memRead (s : State) (x : Word) : getHL (memRead s x).2 = getHL s := rfl

/-! ### The stored bytes -/

/-- States of one memory hold the same stored bytes. -/
theorem storedByte_of_mem {s t : State} (h : t.mem = s.mem) (x : Word) :
    storedByte t x = storedByte s x := by rw [storedByte, storedByte, h]

@[simp] theorem storedByte_storeByte (s : State) (x y : Word) (v : Byte) :
    storedByte (storeByte s x v) y = if y = x then v else storedByte s y := by
  simp [storedByte, BitVec.toNat_inj]

/-- A write stores the byte at the address where that is RAM, and every other byte is as before
(20_memory.md rules R71 and R81). -/
theorem storedByte_memWrite (s : State) (x y : Word) (v : Byte) :
    storedByte (memWrite s x v) y =
      if (kindAt s x).isRam = true ∧ y = x then v else storedByte s y := by
  by_cases h : (kindAt s x).isRam = true
  · simp [storedByte, h, BitVec.toNat_inj]
  · simp [storedByte, h]

@[simp] theorem storedByte_memRead (s : State) (x y : Word) :
    storedByte (memRead s x).2 y = storedByte s y := rfl

@[simp] theorem storedByte_setR8 (s : State) (r : R8) (v : Byte) (x : Word) :
    storedByte (setR8 s r v) x = storedByte s x := storedByte_of_mem (by simp) x

@[simp] theorem storedByte_setR16 (s : State) (p : R16) (w : Word) (x : Word) :
    storedByte (setR16 s p w) x = storedByte s x := storedByte_of_mem (by simp) x

@[simp] theorem storedByte_setHL (s : State) (w : Word) (x : Word) :
    storedByte (setHL s w) x = storedByte s x := storedByte_of_mem (by simp) x

@[simp] theorem storedByte_jumpTo (s : State) (y x : Word) :
    storedByte (jumpTo s y) x = storedByte s x := rfl

@[simp] theorem storedByte_wake (s : State) (x : Word) :
    storedByte (wake s) x = storedByte s x := rfl

@[simp] theorem storedByte_pop16 (s : State) (x : Word) :
    storedByte (pop16 s).2 x = storedByte s x := rfl

/-- The environment move sets bits 4 to 0 of `IF`, on a platform that raises requests, and changes no
other byte (60_exceptions.md rule R403). -/
theorem storedByte_environmentMove (v : Byte) (s : State) (x : Word) :
    storedByte (environmentMove v s) x =
      if s.params.platform.raises = true ∧ x = ifAddr then storedByte s ifAddr ||| (v &&& 0x1F)
      else storedByte s x := by
  by_cases h : s.params.platform.raises = true
  · rw [environmentMove, if_pos h, storedByte_storeByte]
    simp [h]
  · rw [environmentMove, if_neg h, if_neg (fun hx => h hx.1)]

@[simp] theorem storedByte_deviceMove (k : Nat) (s : State) (x : Word) :
    storedByte (deviceMove k s) x = storedByte s x := rfl

/-! ### The canonical form of memory (log entry 2) -/

theorem storeByte_wf (s : State) (x : Word) (v : Byte) (h : Memory.wf s.mem) :
    Memory.wf (storeByte s x v).mem := memSet_wf _ _ _ x.isLt h

/-- A write keeps the canonical form, whatever the cell is. -/
theorem memWrite_wf (s : State) (x : Word) (v : Byte) (h : Memory.wf s.mem) :
    Memory.wf (memWrite s x v).mem := by
  rw [memWrite_mem]
  split
  · exact storeByte_wf s x v h
  · exact h

theorem environmentMove_wf (r : Byte) (s : State) (h : Memory.wf s.mem) :
    Memory.wf (environmentMove r s).mem := by
  unfold environmentMove
  split
  · exact storeByte_wf s _ _ h
  · exact h

/-! ### The platform -/

/-- States of one machine have one memory map. -/
theorem kindAt_of_params {s t : State} (h : t.params = s.params) (x : Word) :
    kindAt t x = kindAt s x := by rw [kindAt, kindAt, h]

/-- A read answers the same in states of one memory and platform. -/
theorem peek_congr {s t : State} (hp : t.params = s.params) (hm : t.mem = s.mem)
    (hd : t.devices = s.devices) (x : Word) : peek t x = peek s x := by
  rw [peek, peek, kindAt_of_params hp, storedByte_of_mem hm, hd]

/-- `IE` and `IF` are RAM on every platform (10_state.md rules R43 and R44). -/
theorem kindAt_interrupt_registers (s : State) (x : Word) (h : x = ieAddr ∨ x = ifAddr) :
    (kindAt s x).isRam = true := by rw [kindAt, Platform.kindAt, if_pos h]; rfl

/-- A read of a cell that is not a device's answers the stored byte with the bits that read as 1. -/
theorem peek_of_not_device (s : State) (x : Word) (h : (kindAt s x).isDevice = false) :
    peek s x = storedByte s x ||| (kindAt s x).ones := by simp [peek, h]

/-- The pending set is what the platform's reads of `IE` and `IF` give (60_exceptions.md rule
R404). -/
theorem pending_eq_peek (s : State) : pending s = peek s ieAddr &&& peek s ifAddr &&& 0x1F := by
  have key : ∀ x y m n : Byte,
      x &&& y &&& 0x1F = (x ||| (m &&& 0xE0)) &&& (y ||| (n &&& 0xE0)) &&& 0x1F := by
    intro x y m n
    ext i hi
    have hc : i = 0 ∨ i = 1 ∨ i = 2 ∨ i = 3 ∨ i = 4 ∨ i = 5 ∨ i = 6 ∨ i = 7 := by omega
    rcases hc with rfl | rfl | rfl | rfl | rfl | rfl | rfl | rfl <;> simp
  have h (x : Word) (hx : x = ieAddr ∨ x = ifAddr) :
      ∃ m, peek s x = storedByte s x ||| (m &&& 0xE0) := by
    rw [peek, kindAt, Platform.kindAt, if_pos hx]
    exact ⟨_, rfl⟩
  obtain ⟨m, hm⟩ := h ieAddr (.inl rfl)
  obtain ⟨n, hn⟩ := h ifAddr (.inr rfl)
  rw [hm, hn]
  exact key _ _ m n

/-- On flat RAM every cell is plain RAM (20_memory.md rule R81). -/
theorem kindAt_flatRAM (s : State) (h : s.params.platform = .flatRAM) (x : Word) :
    kindAt s x = .ram 0x00 := by
  rw [kindAt, h, Platform.kindAt]
  simp [Platform.flatRAM, regionKind, CellKind.ones]

/-- A platform that raises no request makes no environment move of `IF` (60_exceptions.md rule R403). -/
theorem environmentMove_of_not_raises (v : Byte) (s : State)
    (h : s.params.platform.raises = false) : environmentMove v s = s := by
  rw [environmentMove, if_neg (by simp [h])]

/-- A platform whose devices never change by themselves makes no move of them (60_exceptions.md
rule R403). -/
theorem deviceMove_of_not_changes (k : Nat) (s : State)
    (h : s.params.platform.changes = false) : deviceMove k s = s := by
  rw [deviceMove, Platform.note, Platform.sees, h]
  rfl

/-- On flat RAM the environment never moves (20_memory.md rule R81). -/
theorem environment_flatRAM (v : Byte) (k : Nat) (s : State) (h : s.params.platform = .flatRAM) :
    environmentMove v s = s ∧ deviceMove k s = s :=
  ⟨environmentMove_of_not_raises v s (by rw [h]; rfl),
    deviceMove_of_not_changes k s (by rw [h]; rfl)⟩

/-- On flat RAM a read answers the stored byte and has no effect (20_memory.md rule R81). -/
theorem memRead_flatRAM (s : State) (h : s.params.platform = .flatRAM) (x : Word) :
    memRead s x = (storedByte s x, s) := by
  have hk := kindAt_flatRAM s h x
  have hn : s.params.platform.note s.devices (.read x) = s.devices := by
    rw [Platform.note, Platform.sees, show s.params.platform.kindAt x = _ from hk]; rfl
  rw [memRead, hn, peek, hk]
  simp [CellKind.isDevice, CellKind.ones]

/-- On flat RAM a write stores the byte and has no other effect (20_memory.md rule R81). -/
theorem memWrite_flatRAM (s : State) (h : s.params.platform = .flatRAM) (x : Word) (v : Byte) :
    memWrite s x v = storeByte s x v := by
  have hk := kindAt_flatRAM s h x
  have hn : s.params.platform.note s.devices (.write x v) = s.devices := by
    rw [Platform.note, Platform.sees, show s.params.platform.kindAt x = _ from hk]; rfl
  rw [memWrite, hn, hk]
  rfl

end Sys2Proof.Machine
end

