-- ==== Sys2Proof/Laws/Ops.lean ====
section
/-! SUPPORT. For each shared operation, one lemma that says what it does, to be cited instead of
unfolding it. -/

namespace Sys2Proof.Machine

/-! ### Addresses -/

theorem succ_ne (x : Word) : x + 1 ≠ x := by bv_omega

theorem sub_one_ne (x : Word) : x - 1 - 1 ≠ x - 1 := by bv_omega

/-! ### Accesses in a row -/

theorem devicesAfter_append (p : Platform) (seen xs ys : List DeviceEvent) :
    devicesAfter p seen (xs ++ ys) = devicesAfter p (devicesAfter p seen xs) ys := by
  induction xs generalizing seen with
  | nil => rfl
  | cons x rest ih => exact ih (p.note seen x)

/-! ### 16-bit accesses and the stack -/

/-- `Write16`: the low byte at the address, the high byte at the next one, and nothing else
(20_memory.md rule R76). -/
theorem storedByte_write16 (s : State) (x w y : Word) :
    storedByte (write16 s x w) y =
      if (kindAt s (x + 1)).isRam = true ∧ y = x + 1 then hiByte w
      else if (kindAt s x).isRam = true ∧ y = x then loByte w else storedByte s y := by
  rw [write16, storedByte_memWrite, storedByte_memWrite,
    kindAt_of_params (memWrite_params s x (loByte w))]

theorem write16_devices (s : State) (x w : Word) :
    (write16 s x w).devices = devicesAfter s.params.platform s.devices
      [.write x (loByte w), .write (x + 1) (hiByte w)] := rfl

theorem storedByte_push8 (s : State) (v : Byte) (y : Word) :
    storedByte (push8 s v) y =
      if (kindAt s (s.sp - 1)).isRam = true ∧ y = s.sp - 1 then v else storedByte s y :=
  storedByte_memWrite { s with sp := s.sp - 1 } (s.sp - 1) y v

/-- `Push16`: the low byte at the new `SP`, the high byte above it, and nothing else (20_memory.md
rule R77). -/
theorem storedByte_push16 (s : State) (w y : Word) :
    storedByte (push16 s w) y =
      if (kindAt s (s.sp - 1 - 1)).isRam = true ∧ y = s.sp - 1 - 1 then loByte w
      else if (kindAt s (s.sp - 1)).isRam = true ∧ y = s.sp - 1 then hiByte w
      else storedByte s y := by
  rw [push16, storedByte_push8, storedByte_push8, push8_sp,
    kindAt_of_params (push8_params s (hiByte w))]

theorem push16_devices (s : State) (w : Word) :
    (push16 s w).devices = devicesAfter s.params.platform s.devices
      [.write (s.sp - 1) (hiByte w), .write (s.sp - 1 - 1) (loByte w)] := rfl

/-- `Pop16` reads the low byte at `SP`, then the high byte above it (20_memory.md rule R78). -/
theorem pop16_fst (s : State) :
    (pop16 s).1 = wordOf (peek (memRead s s.sp).2 (s.sp + 1)) (peek s s.sp) := rfl

/-- `Pop16` changes `SP` and nothing else, but for what the devices see (20_memory.md rule R78). -/
theorem pop16_snd (s : State) :
    (pop16 s).2 =
      { s with sp := s.sp + 1 + 1,
               devices := devicesAfter s.params.platform s.devices
                 [.read s.sp, .read (s.sp + 1)] } := rfl

/-! ### Reads, and read-modify-write -/

/-- What a reading instruction does: `use` on the byte there and the state after the one read
(20_memory.md rule R75). -/
theorem withRead_spec (s : State) (a : Word) (use : Byte → State → State) :
    withRead s a use = use (peek s a) (memRead s a).2 := rfl

/-- What a read-modify-write of the byte at `HL` does. -/
theorem modifyAtHL_spec (s : State) (g : Byte → Byte × Flags) :
    modifyAtHL s g =
      { s with f := (g (peek s (getHL s))).2,
               mem := if (kindAt s (getHL s)).isRam
                 then memSet s.mem (getHL s).toNat (g (peek s (getHL s))).1 else s.mem
               devices := devicesAfter s.params.platform s.devices
                 [.read (getHL s), .write (getHL s) (g (peek s (getHL s))).1] } := rfl

/-- A read-modify-write of the byte at `HL` stores there and nowhere else. -/
theorem storedByte_modifyAtHL (s : State) (g : Byte → Byte × Flags) (x : Word) :
    storedByte (modifyAtHL s g) x =
      if (kindAt s (getHL s)).isRam = true ∧ x = getHL s then (g (peek s (getHL s))).1
      else storedByte s x :=
  storedByte_memWrite { (memRead s (getHL s)).2 with f := (g (peek s (getHL s))).2 } (getHL s) x _

/-- What the same operation on a register does. -/
theorem modifyR8_spec (s : State) (r : R8) (g : Byte → Byte × Flags) :
    modifyR8 s r g = { setR8 s r (g (getR8 s r)).1 with f := (g (getR8 s r)).2 } := by
  cases r <;> rfl

/-! ### Calls and returns -/

/-- What a call does (45_control.md rule R331). -/
theorem callTo_spec (s : State) (x : Word) : callTo s x = { push16 s s.pc with pc := x } := rfl

/-- What a return does (45_control.md rule R331). -/
theorem returnFrom_spec (s : State) : returnFrom s = { (pop16 s).2 with pc := (pop16 s).1 } := rfl

/-- What returning from an interrupt does (60_exceptions.md rule R412). -/
theorem returnFromInterrupt_spec (s : State) :
    returnFromInterrupt s =
      { (pop16 s).2 with pc := (pop16 s).1, ime := true, eiPending := false } := rfl

/-! ### Fetching -/

/-- `Fetch8` with no `halt_bug`: the byte at `PC`, and `PC` advanced. -/
theorem fetch8_of_not_haltBug (s : State) (h : s.haltBug = false) :
    fetch8 s = (peek s s.pc, { (memRead s s.pc).2 with pc := s.pc + 1 }) := by
  rw [fetch8, if_neg (by simp [h])]; rfl

/-- `Fetch8` with `halt_bug`: the byte at `PC`, `PC` as it was, the bit cleared
(70_reset_and_hazards.md rule R461). -/
theorem fetch8_of_haltBug (s : State) (h : s.haltBug = true) :
    fetch8 s = (peek s s.pc, { (memRead s s.pc).2 with haltBug := false }) := by
  rw [fetch8, if_pos h]; rfl

/-- The states a fetch can lead to: `PC`, `halt_bug`, which is clear, and what the devices have seen
may differ, and nothing else. -/
def FetchedFrom (s t : State) : Prop :=
  t = { s with pc := t.pc, haltBug := false, devices := t.devices }

theorem FetchedFrom.trans {s t u : State} (h1 : FetchedFrom s t) (h2 : FetchedFrom t u) :
    FetchedFrom s u := Eq.trans h2 (by rw [h1])

theorem fetch8_snd (s : State) : FetchedFrom s (fetch8 s).2 := by
  cases h : s.haltBug
  · rw [fetch8_of_not_haltBug s h, FetchedFrom, ← h]; rfl
  · rw [fetch8_of_haltBug s h]; rfl

/-- Fetching an instruction changes `PC`, `halt_bug` and what the devices have seen, and leaves
`halt_bug` clear. -/
theorem fetchInstr_snd (s : State) : FetchedFrom s (fetchInstr s).2 := by
  have h1 := fetch8_snd s
  have h2 := h1.trans (fetch8_snd (fetch8 s).2)
  have h3 := h2.trans (fetch8_snd (fetch8 (fetch8 s).2).2)
  unfold fetchInstr
  generalize formatOf (fetch8 s).1 = format
  cases format
  · exact h1
  · exact h2
  · exact h3
  · exact h2

/-! ### Interrupts -/

/-- What the dispatch does to everything but memory (60_exceptions.md rule R410). -/
theorem dispatch_spec (src : Source) (s : State) :
    dispatch src s =
      { s with ime := false, eiPending := false, sp := s.sp - 1 - 1, pc := src.vector,
               mem := (dispatch src s).mem,
               devices := devicesAfter s.params.platform s.devices
                 [.write (s.sp - 1) (hiByte s.pc), .write (s.sp - 1 - 1) (loByte s.pc)] } := rfl

/-- What the dispatch does to memory: the two bytes of `PC` below the old `SP`, and the source's bit
of `IF` where the stack does not lie over it (60_exceptions.md rule R410). -/
theorem storedByte_dispatch (src : Source) (s : State) (x : Word) :
    storedByte (dispatch src s) x =
      if (kindAt s (s.sp - 1 - 1)).isRam = true ∧ x = s.sp - 1 - 1 then loByte s.pc
      else if (kindAt s (s.sp - 1)).isRam = true ∧ x = s.sp - 1 then hiByte s.pc
      else if x = ifAddr then storedByte s ifAddr &&& ~~~src.mask
      else storedByte s x := by
  have h := storedByte_push16
    (storeByte { s with ime := false, eiPending := false } ifAddr
      (storedByte s ifAddr &&& ~~~src.mask)) s.pc x
  rw [storedByte_storeByte] at h
  exact h

/-- The source dispatched is the least significant 1 bit of the pending set (60_exceptions.md
rule R405). -/
theorem firstSource_spec (p : Byte) (src : Source) (h : firstSource p = some src) :
    p.getLsbD src.index = true ∧ ∀ m < src.index, p.getLsbD m = false := by
  unfold firstSource at h
  split at h
  · cases h; exact ⟨‹_›, fun m hm => absurd hm (Nat.not_lt_zero m)⟩
  split at h
  · cases h
    refine ⟨‹_›, fun m hm => ?_⟩
    obtain rfl : m = 0 := by simp only [Source.index] at hm; omega
    simp_all
  split at h
  · cases h
    refine ⟨‹_›, fun m hm => ?_⟩
    obtain rfl | rfl : m = 0 ∨ m = 1 := by simp only [Source.index] at hm; omega
    all_goals simp_all
  split at h
  · cases h
    refine ⟨‹_›, fun m hm => ?_⟩
    obtain rfl | rfl | rfl : m = 0 ∨ m = 1 ∨ m = 2 := by simp only [Source.index] at hm; omega
    all_goals simp_all
  split at h
  · cases h
    refine ⟨‹_›, fun m hm => ?_⟩
    obtain rfl | rfl | rfl | rfl : m = 0 ∨ m = 1 ∨ m = 2 ∨ m = 3 := by
      simp only [Source.index] at hm; omega
    all_goals simp_all
  · cases h

/-- With a byte of bits 4 to 0 that is not zero, some source is first. -/
theorem firstSource_isSome : ∀ p : Byte, p &&& 0x1F ≠ 0 → (firstSource (p &&& 0x1F)).isSome := by
  decide

/-- The pending set has bits 4 to 0 only. -/
theorem pending_and_mask (s : State) : pending s &&& 0x1F = pending s := by
  rw [pending, BitVec.and_assoc, BitVec.and_self]

/-- The pending set is empty exactly when no source is first. -/
theorem firstSource_pending (s : State) : (firstSource (pending s)).isSome ↔ pending s ≠ 0 := by
  constructor
  · intro h hp
    rw [hp] at h
    exact absurd h (by decide)
  · intro h
    rw [← pending_and_mask s] at h ⊢
    exact firstSource_isSome _ h

/-! ### The plan of a step (60_exceptions.md rule R420) -/

/-- A machine that is stopped, or halted with nothing pending, stays. -/
theorem plan_stay (s : State) (h : s.mode = .stopped ∨ s.mode = .halted ∧ pending s = 0) :
    plan s = .stay := if_pos h

/-- A machine that does not stay dispatches the source `interruptTaken` gives, or executes. -/
theorem plan_go (s : State) (h : ¬ (s.mode = .stopped ∨ s.mode = .halted ∧ pending s = 0)) :
    plan s =
      match interruptTaken s with
      | some src => .interrupt src (wake s)
      | none => .execute (wake s) := if_neg h

/-- A source is taken exactly when `IME = 1` and something is pending. -/
theorem interruptTaken_isSome (s : State) :
    (interruptTaken s).isSome ↔ s.ime = true ∧ pending s ≠ 0 := by
  unfold interruptTaken
  cases s.ime
  · simp
  · simpa using firstSource_pending s

/-- Everything a step can do: nothing, one dispatch, or one instruction (60_exceptions.md
rule R420). -/
theorem step_cases (s : State) :
    ((s.mode = .stopped ∨ s.mode = .halted ∧ pending s = 0) ∧ step s = .next s) ∨
      (¬ (s.mode = .stopped ∨ s.mode = .halted ∧ pending s = 0) ∧
        ∃ src, interruptTaken s = some src ∧ step s = .next (dispatch src (wake s))) ∨
      (¬ (s.mode = .stopped ∨ s.mode = .halted ∧ pending s = 0) ∧ interruptTaken s = none ∧
        step s = finishStep s.eiPending (exec (fetchInstr (wake s)).1 (fetchInstr (wake s)).2)) := by
  by_cases hs : s.mode = .stopped ∨ s.mode = .halted ∧ pending s = 0
  · exact .inl ⟨hs, by rw [step, plan_stay s hs]⟩
  · have hp := plan_go s hs
    cases hi : interruptTaken s with
    | some src =>
      rw [hi] at hp
      exact .inr (.inl ⟨hs, src, rfl, by rw [step, hp]⟩)
    | none =>
      rw [hi] at hp
      exact .inr (.inr ⟨hs, rfl, by rw [step, hp]⟩)

/-! ### The end of a step -/

/-- The end of an instruction's step sets `IME` exactly when an `EI` of the step before is still
pending. -/
theorem finishEi_spec (enableAfter : Bool) (s : State) :
    finishEi enableAfter s =
      { s with ime := s.ime || (enableAfter && s.eiPending),
               eiPending := s.eiPending && !enableAfter } := by
  obtain ⟨a, b, c, d, e, h, l, f, sp, pc, ime, ei, mode, hb, mem, devices, params⟩ := s
  cases enableAfter <;> cases ei <;> simp [finishEi]

/-- What `HALT` can do under a policy (47_misc.md rule R376). -/
theorem haltUnder_cases (policy : HaltBugPolicy) (s : State) :
    (¬ (s.ime = false ∧ pending s ≠ 0) ∧ haltUnder policy s = .next { s with mode := .halted }) ∨
      ((s.ime = false ∧ pending s ≠ 0) ∧ policy = .fault ∧
        haltUnder policy s = .fault (.haltBug s)) ∨
      ((s.ime = false ∧ pending s ≠ 0) ∧ policy = .emulate ∧
        haltUnder policy s = .next { s with haltBug := true }) := by
  unfold haltUnder
  by_cases h : s.ime = false ∧ pending s ≠ 0
  · have hc : (!s.ime && pending s != 0) = true := by
      rw [h.1, bne_iff_ne.mpr h.2]; rfl
    rw [if_pos hc]
    cases policy
    · exact .inr (.inl ⟨h, rfl, rfl⟩)
    · exact .inr (.inr ⟨h, rfl, rfl⟩)
  · have hc : ¬ (!s.ime && pending s != 0) = true := by
      rw [Bool.and_eq_true, Bool.not_eq_true', bne_iff_ne]; exact h
    rw [if_neg hc]
    exact .inl ⟨h, rfl⟩

end Sys2Proof.Machine
end

