-- ==== Sys2Proof/Laws/Frames.lean ====
section
/-! SUPPORT. What each update of the state leaves unchanged, in the words of `Safety.lean`. -/

namespace Sys2Proof.Machine

/-! ### Transitivity -/

theorem Accessed.refl (s : State) : Accessed [] s s := ⟨fun _ _ => rfl, rfl, rfl⟩

/-- States of one memory, one platform state and one machine: no access. -/
theorem accessed_nil {s t : State} (hm : t.mem = s.mem) (hd : t.devices = s.devices)
    (hp : t.params = s.params) : Accessed [] s t :=
  ⟨fun x _ => storedByte_of_mem hm x, hd, hp⟩

theorem Accessed.trans {xs ys : List DeviceEvent} {s t u : State} (h1 : Accessed xs s t)
    (h2 : Accessed ys t u) : Accessed (xs ++ ys) s u := by
  obtain ⟨m1, d1, p1⟩ := h1
  obtain ⟨m2, d2, p2⟩ := h2
  refine ⟨fun a ha => ?_, by rw [d2, d1, p1, devicesAfter_append], p2.trans p1⟩
  rw [m2 a, m1 a]
  · rintro ⟨hr, v, hv⟩
    exact ha ⟨hr, v, List.mem_append_left _ hv⟩
  · rintro ⟨hr, v, hv⟩
    exact ha ⟨by rwa [kindAt_of_params p1] at hr, v, List.mem_append_right _ hv⟩

/-- A change of neither memory, nor the devices, nor the machine makes no access. -/
theorem Accessed.congr {xs : List DeviceEvent} {s t u : State} (h : Accessed xs s t)
    (hm : u.mem = t.mem) (hd : u.devices = t.devices) (hp : u.params = t.params) :
    Accessed xs s u :=
  ⟨fun x hx => (storedByte_of_mem hm x).trans (h.1 x hx), hd.trans h.2.1, hp.trans h.2.2⟩

theorem OnlyR8.refl (written : List R8) (s : State) : OnlyR8 written [] s s :=
  ⟨fun _ _ => rfl, rfl, rfl, ⟨rfl, rfl, rfl, rfl⟩, Accessed.refl s⟩

theorem OnlyR8.trans {written : List R8} {xs ys : List DeviceEvent} {s t u : State}
    (h1 : OnlyR8 written xs s t) (h2 : OnlyR8 written ys t u) : OnlyR8 written (xs ++ ys) s u := by
  obtain ⟨r1, sp1, pc1, ⟨i1, e1, m1, b1⟩, a1⟩ := h1
  obtain ⟨r2, sp2, pc2, ⟨i2, e2, m2, b2⟩, a2⟩ := h2
  exact ⟨fun r hr => (r2 r hr).trans (r1 r hr), sp2.trans sp1, pc2.trans pc1,
    ⟨i2.trans i1, e2.trans e1, m2.trans m1, b2.trans b1⟩, a1.trans a2⟩

/-- What writes no register writes none but those listed. -/
theorem OnlyR8.of_nil {written : List R8} {xs : List DeviceEvent} {s t : State}
    (h : OnlyR8 [] xs s t) : OnlyR8 written xs s t :=
  ⟨fun r _ => h.1 r (by simp), h.2⟩

/-! ### Registers and flags -/

@[simp] theorem getR8_flags (s : State) (f : Flags) (r : R8) :
    getR8 { s with f := f } r = getR8 s r := by cases r <;> rfl

/-- A change of the flags changes nothing else. -/
theorem onlyR8_flags (s : State) (f : Flags) : OnlyR8 [] [] s { s with f := f } :=
  ⟨fun r _ => getR8_flags s f r, rfl, rfl, ⟨rfl, rfl, rfl, rfl⟩, accessed_nil rfl rfl rfl⟩

/-- A write of a register changes nothing else. -/
theorem onlyR8_setR8 (s : State) (r : R8) (v : Byte) : OnlyR8 [r] [] s (setR8 s r v) := by
  refine ⟨fun q hq => ?_, by simp, by simp, ⟨by simp, by simp, by simp, by simp⟩,
    accessed_nil (by simp) (by simp) (by simp)⟩
  rw [getR8_setR8, if_neg fun h => hq (by simp [h])]

/-- A result into `A` with its flags changes nothing else. -/
theorem onlyR8_setAFlags (s : State) (p : Byte × Flags) : OnlyR8 [.a] [] s (setAFlags s p) :=
  (onlyR8_setR8 s .a p.1).trans
    ⟨fun r _ => by cases r <;> rfl, rfl, rfl, ⟨rfl, rfl, rfl, rfl⟩, accessed_nil rfl rfl rfl⟩

/-- An operation on a register changes the register, the flags and nothing else. -/
theorem onlyR8_modifyR8 (s : State) (r : R8) (g : Byte → Byte × Flags) :
    OnlyR8 [r] [] s (modifyR8 s r g) := by
  rw [modifyR8_spec]
  refine (onlyR8_setR8 s r (g (getR8 s r)).1).trans ?_
  exact ⟨fun q _ => getR8_flags _ _ q, rfl, rfl, ⟨rfl, rfl, rfl, rfl⟩, accessed_nil rfl rfl rfl⟩

@[simp] theorem getR8_modifyR8 (s : State) (r : R8) (g : Byte → Byte × Flags) :
    getR8 (modifyR8 s r g) r = (g (getR8 s r)).1 := by
  rw [modifyR8_spec]
  exact (getR8_flags (setR8 s r (g (getR8 s r)).1) _ r).trans (by simp)

@[simp] theorem modifyR8_f (s : State) (r : R8) (g : Byte → Byte × Flags) :
    (modifyR8 s r g).f = (g (getR8 s r)).2 := by rw [modifyR8_spec]

/-- A write of a pair changes its two halves and nothing else. -/
theorem onlyR8_setR16 (s : State) (p : R16) (w : Word) : OnlyR8 (halves p) [] s (setR16 s p w) := by
  refine ⟨fun r hr => ?_, by simp, by simp, ⟨by simp, by simp, by simp, by simp⟩,
    accessed_nil (by simp) (by simp) (by simp)⟩
  cases p <;> cases r <;> simp_all [halves, getR8_setR16]

/-- A result into `HL` with its flags changes nothing else. -/
theorem onlyR8_setHLFlags (s : State) (p : Word × Flags) :
    OnlyR8 [.h, .l] [] s (setHLFlags s p) := by
  refine ⟨fun r hr => ?_, rfl, rfl, ⟨rfl, rfl, rfl, rfl⟩, accessed_nil rfl rfl rfl⟩
  cases r <;> simp_all <;> rfl

@[simp] theorem getHL_setHLFlags (s : State) (p : Word × Flags) :
    getHL (setHLFlags s p) = p.1 := wordOf_hiByte_loByte p.1

/-! ### Memory -/

/-- A read is one access and changes nothing. -/
theorem onlyR8_memRead (s : State) (x : Word) : OnlyR8 [] [.read x] s (memRead s x).2 :=
  ⟨fun r _ => getR8_memRead s x r, rfl, rfl, ⟨rfl, rfl, rfl, rfl⟩, fun _ _ => rfl, rfl, rfl⟩

/-- A write is one access and changes nothing else. -/
theorem onlyR8_memWrite (s : State) (x : Word) (v : Byte) :
    OnlyR8 [] [.write x v] s (memWrite s x v) := by
  refine ⟨fun r _ => getR8_memWrite s x v r, rfl, rfl, ⟨rfl, rfl, rfl, rfl⟩, fun y hy => ?_, rfl,
    rfl⟩
  rw [storedByte_memWrite, if_neg]
  rintro ⟨hr, rfl⟩
  exact hy ⟨hr, v, by simp⟩

/-- What a reading instruction does, from what it does with the byte. -/
theorem onlyR8_withRead {written : List R8} {xs : List DeviceEvent} (s : State) (x : Word)
    (use : Byte → State → State)
    (h : OnlyR8 written xs (memRead s x).2 (use (peek s x) (memRead s x).2)) :
    OnlyR8 written (.read x :: xs) s (withRead s x use) :=
  (onlyR8_memRead s x).of_nil.trans h

/-- A read-modify-write of the byte at `HL` is one read and one write, and changes the flags and
nothing else. -/
theorem onlyR8_modifyAtHL (s : State) (g : Byte → Byte × Flags) :
    OnlyR8 [] [.read (getHL s), .write (getHL s) (g (peek s (getHL s))).1] s (modifyAtHL s g) := by
  have h := (onlyR8_flags (memRead s (getHL s)).2 (g (peek s (getHL s))).2).trans
    (onlyR8_memWrite { (memRead s (getHL s)).2 with f := (g (peek s (getHL s))).2 } (getHL s)
      (g (peek s (getHL s))).1)
  exact onlyR8_withRead s (getHL s) _ h

theorem sub_one_sub_one (x : Word) : x - 1 - 1 = x - 2 := by bv_omega

/-- `Push16` writes the two bytes below the old `SP` and changes `SP`, nothing else. -/
theorem onlyStack_push16 (s : State) (w : Word) :
    OnlyStack [.write (s.sp - 1) (hiByte w), .write (s.sp - 2) (loByte w)] s (push16 s w) := by
  refine ⟨fun r _ => getR8_push16 s w r, rfl, ⟨rfl, rfl, rfl, rfl⟩, fun y hy => ?_, ?_, rfl⟩
  · rw [storedByte_push16, sub_one_sub_one, if_neg, if_neg]
    · rintro ⟨hr, rfl⟩
      exact hy ⟨hr, hiByte w, by simp⟩
    · rintro ⟨hr, rfl⟩
      exact hy ⟨hr, loByte w, by simp⟩
  · rw [push16_devices, sub_one_sub_one]

/-- `Pop16` reads the two bytes at `SP` and changes `SP`, nothing else. -/
theorem onlyStack_pop16 (s : State) :
    OnlyStack [.read s.sp, .read (s.sp + 1)] s (pop16 s).2 := by
  refine ⟨fun r _ => getR8_pop16 s r, by simp, by simp [KeepsControl], fun x _ => by simp, ?_,
    by simp⟩
  rw [pop16_snd]

/-- A return changes `PC` too. -/
theorem onlyStack_returnFrom (s : State) :
    OnlyStack [.read s.sp, .read (s.sp + 1)] s (returnFrom s) := by
  have h := onlyStack_pop16 s
  exact ⟨fun r _ => getR8_returnFrom s r, h.2.1, h.2.2.1, h.2.2.2.congr rfl rfl rfl⟩

end Sys2Proof.Machine
end

