-- ==== Sys2Proof/Laws/PerInstr.lean ====
section
/-! SUPPORT. Statements made per instruction: one lemma for each constructor of `Instr`. -/

namespace Sys2Proof.Laws

/-- The encoding has the length of the `Bytes:` line (70_reset_and_hazards.md rule R470). -/
def EncodeLength.Statement (i : Instr) : Prop := (encode i).length = Machine.instrBytes i

namespace EncodeLength

theorem adcAR8 (r : R8) : Statement (.adcAR8 r) := rfl

theorem adcAAtHL : Statement .adcAAtHL := rfl

theorem adcAN8 (n : Byte) : Statement (.adcAN8 n) := rfl

theorem addAR8 (r : R8) : Statement (.addAR8 r) := rfl

theorem addAAtHL : Statement .addAAtHL := rfl

theorem addAN8 (n : Byte) : Statement (.addAN8 n) := rfl

theorem andAR8 (r : R8) : Statement (.andAR8 r) := rfl

theorem andAAtHL : Statement .andAAtHL := rfl

theorem andAN8 (n : Byte) : Statement (.andAN8 n) := rfl

theorem cpAR8 (r : R8) : Statement (.cpAR8 r) := rfl

theorem cpAAtHL : Statement .cpAAtHL := rfl

theorem cpAN8 (n : Byte) : Statement (.cpAN8 n) := rfl

theorem decR8 (r : R8) : Statement (.decR8 r) := rfl

theorem decAtHL : Statement .decAtHL := rfl

theorem incR8 (r : R8) : Statement (.incR8 r) := rfl

theorem incAtHL : Statement .incAtHL := rfl

theorem orAR8 (r : R8) : Statement (.orAR8 r) := rfl

theorem orAAtHL : Statement .orAAtHL := rfl

theorem orAN8 (n : Byte) : Statement (.orAN8 n) := rfl

theorem sbcAR8 (r : R8) : Statement (.sbcAR8 r) := rfl

theorem sbcAAtHL : Statement .sbcAAtHL := rfl

theorem sbcAN8 (n : Byte) : Statement (.sbcAN8 n) := rfl

theorem subAR8 (r : R8) : Statement (.subAR8 r) := rfl

theorem subAAtHL : Statement .subAAtHL := rfl

theorem subAN8 (n : Byte) : Statement (.subAN8 n) := rfl

theorem xorAR8 (r : R8) : Statement (.xorAR8 r) := rfl

theorem xorAAtHL : Statement .xorAAtHL := rfl

theorem xorAN8 (n : Byte) : Statement (.xorAN8 n) := rfl

theorem addHLR16 (p : R16) : Statement (.addHLR16 p) := rfl

theorem addHLSP : Statement .addHLSP := rfl

theorem addSPE8 (e : Byte) : Statement (.addSPE8 e) := rfl

theorem decR16 (p : R16) : Statement (.decR16 p) := rfl

theorem decSP : Statement .decSP := rfl

theorem incR16 (p : R16) : Statement (.incR16 p) := rfl

theorem incSP : Statement .incSP := rfl

theorem bitR8 (u : BitVec 3) (r : R8) : Statement (.bitR8 u r) := rfl

theorem bitAtHL (u : BitVec 3) : Statement (.bitAtHL u) := rfl

theorem resR8 (u : BitVec 3) (r : R8) : Statement (.resR8 u r) := rfl

theorem resAtHL (u : BitVec 3) : Statement (.resAtHL u) := rfl

theorem setR8 (u : BitVec 3) (r : R8) : Statement (.setR8 u r) := rfl

theorem setAtHL (u : BitVec 3) : Statement (.setAtHL u) := rfl

theorem swapR8 (r : R8) : Statement (.swapR8 r) := rfl

theorem swapAtHL : Statement .swapAtHL := rfl

theorem rlR8 (r : R8) : Statement (.rlR8 r) := rfl

theorem rlAtHL : Statement .rlAtHL := rfl

theorem rla : Statement .rla := rfl

theorem rlcR8 (r : R8) : Statement (.rlcR8 r) := rfl

theorem rlcAtHL : Statement .rlcAtHL := rfl

theorem rlca : Statement .rlca := rfl

theorem rrR8 (r : R8) : Statement (.rrR8 r) := rfl

theorem rrAtHL : Statement .rrAtHL := rfl

theorem rra : Statement .rra := rfl

theorem rrcR8 (r : R8) : Statement (.rrcR8 r) := rfl

theorem rrcAtHL : Statement .rrcAtHL := rfl

theorem rrca : Statement .rrca := rfl

theorem slaR8 (r : R8) : Statement (.slaR8 r) := rfl

theorem slaAtHL : Statement .slaAtHL := rfl

theorem sraR8 (r : R8) : Statement (.sraR8 r) := rfl

theorem sraAtHL : Statement .sraAtHL := rfl

theorem srlR8 (r : R8) : Statement (.srlR8 r) := rfl

theorem srlAtHL : Statement .srlAtHL := rfl

theorem ldR8R8 (dst src : R8) : Statement (.ldR8R8 dst src) := rfl

theorem ldR8N8 (r : R8) (n : Byte) : Statement (.ldR8N8 r n) := rfl

theorem ldR16N16 (p : R16) (n : Word) : Statement (.ldR16N16 p n) := rfl

theorem ldAtHLR8 (r : R8) : Statement (.ldAtHLR8 r) := rfl

theorem ldAtHLN8 (n : Byte) : Statement (.ldAtHLN8 n) := rfl

theorem ldR8AtHL (r : R8) : Statement (.ldR8AtHL r) := rfl

theorem ldAtR16A (p : R16) : Statement (.ldAtR16A p) := rfl

theorem ldAtN16A (n : Word) : Statement (.ldAtN16A n) := rfl

theorem ldHighN8A (n : Byte) : Statement (.ldHighN8A n) := rfl

theorem ldHighCA : Statement .ldHighCA := rfl

theorem ldAAtR16 (p : R16) : Statement (.ldAAtR16 p) := rfl

theorem ldAAtN16 (n : Word) : Statement (.ldAAtN16 n) := rfl

theorem ldAHighN8 (n : Byte) : Statement (.ldAHighN8 n) := rfl

theorem ldAHighC : Statement .ldAHighC := rfl

theorem ldAtHLIncA : Statement .ldAtHLIncA := rfl

theorem ldAtHLDecA : Statement .ldAtHLDecA := rfl

theorem ldAAtHLInc : Statement .ldAAtHLInc := rfl

theorem ldAAtHLDec : Statement .ldAAtHLDec := rfl

theorem ldSPN16 (n : Word) : Statement (.ldSPN16 n) := rfl

theorem ldAtN16SP (n : Word) : Statement (.ldAtN16SP n) := rfl

theorem ldHLSPE8 (e : Byte) : Statement (.ldHLSPE8 e) := rfl

theorem ldSPHL : Statement .ldSPHL := rfl

theorem callN16 (n : Word) : Statement (.callN16 n) := rfl

theorem callCcN16 (cc : Cond) (n : Word) : Statement (.callCcN16 cc n) := rfl

theorem jpN16 (n : Word) : Statement (.jpN16 n) := rfl

theorem jpCcN16 (cc : Cond) (n : Word) : Statement (.jpCcN16 cc n) := rfl

theorem jpHL : Statement .jpHL := rfl

theorem jrE8 (e : Byte) : Statement (.jrE8 e) := rfl

theorem jrCcE8 (cc : Cond) (e : Byte) : Statement (.jrCcE8 cc e) := rfl

theorem ret : Statement .ret := rfl

theorem retCc (cc : Cond) : Statement (.retCc cc) := rfl

theorem reti : Statement .reti := rfl

theorem rstVec (vec : Byte) : Statement (.rstVec vec) := rfl

theorem popAF : Statement .popAF := rfl

theorem popR16 (p : R16) : Statement (.popR16 p) := rfl

theorem pushAF : Statement .pushAF := rfl

theorem pushR16 (p : R16) : Statement (.pushR16 p) := rfl

theorem ccf : Statement .ccf := rfl

theorem cpl : Statement .cpl := rfl

theorem daa : Statement .daa := rfl

theorem di : Statement .di := rfl

theorem ei : Statement .ei := rfl

theorem halt : Statement .halt := rfl

theorem nop : Statement .nop := rfl

theorem scf : Statement .scf := rfl

theorem stop (pad : Byte) : Statement (.stop pad) := rfl

theorem illegalD3 : Statement .illegalD3 := rfl

theorem illegalDB : Statement .illegalDB := rfl

theorem illegalDD : Statement .illegalDD := rfl

theorem illegalE3 : Statement .illegalE3 := rfl

theorem illegalE4 : Statement .illegalE4 := rfl

theorem illegalEB : Statement .illegalEB := rfl

theorem illegalEC : Statement .illegalEC := rfl

theorem illegalED : Statement .illegalED := rfl

theorem illegalF4 : Statement .illegalF4 := rfl

theorem illegalFC : Statement .illegalFC := rfl

theorem illegalFD : Statement .illegalFD := rfl

end EncodeLength

end Sys2Proof.Laws
end

