-- ==== Sys2Proof/Tests/Slice0.lean ====
section
/-! SUPPORT. Tests. The expected results of the step tests are the vectors of spec
95_test_vectors.md, named in each docstring; the words of the decode tests are written out from the
encodings of 30_encoding.md and of the instructions' own rules. -/

namespace Sys2Proof.Tests

open Sys2Proof.Machine Sys2Proof.Claims

/-! ### One step on a small state -/

/-- One assignment of a vector: a register, a byte of memory, the control state. -/
inductive Put where
  | a (v : Byte) | f (v : Byte) | b (v : Byte) | c (v : Byte) | d (v : Byte) | e (v : Byte)
  | h (v : Byte) | l (v : Byte) | af (v : Word) | bc (v : Word) | de (v : Word) | hl (v : Word)
  | sp (v : Word) | pc (v : Word) | ime (v : Bool) | ei (v : Bool) | bug (v : Bool)
  | mode (m : Mode) | mem (x : Word) (v : Byte)

/-- A state with one assignment made. -/
def put (s : State) : Put → State
  | .a v => { s with a := v }
  | .f v => { s with f := flagsOfByte v }
  | .b v => { s with b := v }
  | .c v => { s with c := v }
  | .d v => { s with d := v }
  | .e v => { s with e := v }
  | .h v => { s with h := v }
  | .l v => { s with l := v }
  | .af v => setAF s v
  | .bc v => setR16 s .bc v
  | .de v => setR16 s .de v
  | .hl v => setHL s v
  | .sp v => { s with sp := v }
  | .pc v => { s with pc := v }
  | .ime v => { s with ime := v }
  | .ei v => { s with eiPending := v }
  | .bug v => { s with haltBug := v }
  | .mode m => { s with mode := m }
  | .mem x v => memWrite s x v

/-- The state after reset with the assignments made. -/
def start (puts : List Put) : State := puts.foldl put State.reset

/-- One step from the start gives the start with the second assignments made, and nothing else. -/
def stepGives (before after : List Put) : Bool :=
  match step (start before) with
  | .next t => decide (t = after.foldl put (start before))
  | _ => false

/-- 95_test_vectors.md A8-5. -/
theorem test_adcAR8 : stepGives
    [.pc 0x0100, .mem 0x0100 0x88, .a 0xE1, .b 0x0F, .f 0x10]
    [.a 0xF1, .f 0x20, .pc 0x0101] = true := by
  decide

/-- 95_test_vectors.md A8-6. -/
theorem test_adcAR8_more : stepGives
    [.pc 0x0100, .mem 0x0100 0x8F, .a 0x80, .f 0x10]
    [.a 0x01, .f 0x10, .pc 0x0101] = true := by
  decide

/-- 95_test_vectors.md A8-7. -/
theorem test_adcAAtHL : stepGives
    [.pc 0x0100, .mem 0x0100 0x8E, .a 0x00, .hl 0xC000, .f 0x10, .mem 0xC000 0xFF]
    [.a 0x00, .f 0xB0, .pc 0x0101] = true := by
  decide

/-- 95_test_vectors.md A8-8. -/
theorem test_adcAN8 : stepGives
    [.pc 0x0100, .mem 0x0100 0xCE, .mem 0x0101 0x00, .a 0xFF, .f 0x10]
    [.a 0x00, .f 0xB0, .pc 0x0102] = true := by
  decide

/-- 95_test_vectors.md A8-1. -/
theorem test_addAR8 : stepGives
    [.pc 0x0100, .mem 0x0100 0x80, .a 0x3A, .b 0xC6, .f 0x00]
    [.a 0x00, .f 0xB0, .pc 0x0101] = true := by
  decide

/-- 95_test_vectors.md A8-3. -/
theorem test_addAAtHL : stepGives
    [.pc 0x0100, .mem 0x0100 0x86, .a 0x0F, .hl 0xC000, .f 0x10, .mem 0xC000 0x01]
    [.a 0x10, .f 0x20, .hl 0xC000, .mem 0xC000 0x01, .pc 0x0101] = true := by
  decide

/-- 95_test_vectors.md A8-4. -/
theorem test_addAN8 : stepGives
    [.pc 0x0100, .mem 0x0100 0xC6, .mem 0x0101 0xFF, .a 0x01, .f 0x00]
    [.a 0x00, .f 0xB0, .pc 0x0102] = true := by
  decide

/-- 95_test_vectors.md A8-10. -/
theorem test_andAR8 : stepGives
    [.pc 0x0100, .mem 0x0100 0xA0, .a 0x5A, .b 0x3F, .f 0x10]
    [.a 0x1A, .f 0x20, .pc 0x0101] = true := by
  decide

/-- 95_test_vectors.md A8-12. -/
theorem test_andAAtHL : stepGives
    [.pc 0x0100, .mem 0x0100 0xA6, .a 0x5A, .hl 0xC000, .f 0x00, .mem 0xC000 0xA5]
    [.a 0x00, .f 0xA0, .pc 0x0101] = true := by
  decide

/-- 95_test_vectors.md A8-13. -/
theorem test_andAN8 : stepGives
    [.pc 0x0100, .mem 0x0100 0xE6, .mem 0x0101 0x0F, .a 0xF5, .f 0x50]
    [.a 0x05, .f 0x20, .pc 0x0102] = true := by
  decide

/-- 95_test_vectors.md A8-14. -/
theorem test_cpAR8 : stepGives
    [.pc 0x0100, .mem 0x0100 0xB8, .a 0x3C, .b 0x2F, .f 0x00]
    [.a 0x3C, .f 0x60, .pc 0x0101] = true := by
  decide

/-- 95_test_vectors.md A8-16. -/
theorem test_cpAAtHL : stepGives
    [.pc 0x0100, .mem 0x0100 0xBE, .a 0x3C, .hl 0xC000, .f 0x00, .mem 0xC000 0x40]
    [.a 0x3C, .f 0x50, .pc 0x0101] = true := by
  decide

/-- 95_test_vectors.md A8-17. -/
theorem test_cpAN8 : stepGives
    [.pc 0x0100, .mem 0x0100 0xFE, .mem 0x0101 0x3C, .a 0x3C, .f 0x10]
    [.a 0x3C, .f 0xC0, .pc 0x0102] = true := by
  decide

/-- the example of 40_alu8.md rule R161. -/
theorem test_cpAN8_more : stepGives
    [.pc 0x0100, .mem 0x0100 0xFE, .mem 0x0101 0x3C, .a 0x3C, .f 0x00]
    [.a 0x3C, .f 0xC0, .pc 0x0102] = true := by
  decide

/-- 95_test_vectors.md A8-18. -/
theorem test_decR8 : stepGives
    [.pc 0x0100, .mem 0x0100 0x05, .b 0x10, .f 0x10]
    [.b 0x0F, .f 0x70, .pc 0x0101] = true := by
  decide

/-- 95_test_vectors.md A8-20. -/
theorem test_decR8_more : stepGives
    [.pc 0x0100, .mem 0x0100 0x2D, .l 0x00, .h 0x12, .f 0x00]
    [.l 0xFF, .h 0x12, .f 0x60, .pc 0x0101] = true := by
  decide

/-- 95_test_vectors.md A8-21. -/
theorem test_decAtHL : stepGives
    [.pc 0x0100, .mem 0x0100 0x35, .hl 0xC000, .f 0x10, .mem 0xC000 0x00]
    [.mem 0xC000 0xFF, .f 0x70, .pc 0x0101] = true := by
  decide

/-- 95_test_vectors.md A8-23. -/
theorem test_incR8 : stepGives
    [.pc 0x0100, .mem 0x0100 0x04, .b 0xFF, .f 0x10]
    [.b 0x00, .f 0xB0, .pc 0x0101] = true := by
  decide

/-- the example of 40_alu8.md rule R164. -/
theorem test_incR8_more : stepGives
    [.pc 0x0100, .mem 0x0100 0x3C, .a 0xFF, .f 0x00]
    [.a 0x00, .f 0xA0, .pc 0x0101] = true := by
  decide

/-- 95_test_vectors.md A8-26. -/
theorem test_incAtHL : stepGives
    [.pc 0x0100, .mem 0x0100 0x34, .hl 0xC000, .f 0x00, .mem 0xC000 0xFF]
    [.mem 0xC000 0x00, .f 0xA0, .pc 0x0101] = true := by
  decide

/-- 95_test_vectors.md A8-28. -/
theorem test_orAR8 : stepGives
    [.pc 0x0100, .mem 0x0100 0xB0, .a 0x5A, .b 0x0F, .f 0xF0]
    [.a 0x5F, .f 0x00, .pc 0x0101] = true := by
  decide

/-- 95_test_vectors.md A8-30. -/
theorem test_orAAtHL : stepGives
    [.pc 0x0100, .mem 0x0100 0xB6, .a 0x01, .hl 0xC000, .f 0x00, .mem 0xC000 0x80]
    [.a 0x81, .f 0x00, .pc 0x0101] = true := by
  decide

/-- 95_test_vectors.md A8-31. -/
theorem test_orAN8 : stepGives
    [.pc 0x0100, .mem 0x0100 0xF6, .mem 0x0101 0x00, .a 0x00, .f 0x00]
    [.a 0x00, .f 0x80, .pc 0x0102] = true := by
  decide

/-- 95_test_vectors.md A8-32. -/
theorem test_sbcAR8 : stepGives
    [.pc 0x0100, .mem 0x0100 0x98, .a 0x3B, .b 0x2A, .f 0x10]
    [.a 0x10, .f 0x40, .pc 0x0101] = true := by
  decide

/-- the example of 40_alu8.md rule R171. -/
theorem test_sbcAR8_more : stepGives
    [.pc 0x0100, .mem 0x0100 0x9C, .a 0x3B, .h 0x2A, .f 0x10]
    [.a 0x10, .f 0x40, .pc 0x0101] = true := by
  decide

/-- 95_test_vectors.md A8-35. -/
theorem test_sbcAAtHL : stepGives
    [.pc 0x0100, .mem 0x0100 0x9E, .a 0x3B, .hl 0xC000, .f 0x10, .mem 0xC000 0x4F]
    [.a 0xEB, .f 0x70, .pc 0x0101] = true := by
  decide

/-- 95_test_vectors.md A8-36. -/
theorem test_sbcAN8 : stepGives
    [.pc 0x0100, .mem 0x0100 0xDE, .mem 0x0101 0xFF, .a 0x00, .f 0x10]
    [.a 0x00, .f 0xF0, .pc 0x0102] = true := by
  decide

/-- 95_test_vectors.md A8-37. -/
theorem test_subAR8 : stepGives
    [.pc 0x0100, .mem 0x0100 0x90, .a 0x3E, .b 0x40, .f 0x00]
    [.a 0xFE, .f 0x50, .pc 0x0101] = true := by
  decide

/-- 95_test_vectors.md A8-39. -/
theorem test_subAAtHL : stepGives
    [.pc 0x0100, .mem 0x0100 0x96, .a 0x3E, .hl 0xC000, .f 0x00, .mem 0xC000 0x0F]
    [.a 0x2F, .f 0x60, .pc 0x0101] = true := by
  decide

/-- 95_test_vectors.md A8-40. -/
theorem test_subAN8 : stepGives
    [.pc 0x0100, .mem 0x0100 0xD6, .mem 0x0101 0x01, .a 0x00, .f 0x00]
    [.a 0xFF, .f 0x70, .pc 0x0102] = true := by
  decide

/-- 95_test_vectors.md A8-42. -/
theorem test_xorAR8 : stepGives
    [.pc 0x0100, .mem 0x0100 0xA8, .a 0xFF, .b 0x0F, .f 0xF0]
    [.a 0xF0, .f 0x00, .pc 0x0101] = true := by
  decide

/-- 95_test_vectors.md A8-44. -/
theorem test_xorAAtHL : stepGives
    [.pc 0x0100, .mem 0x0100 0xAE, .a 0xFF, .hl 0xC000, .f 0x00, .mem 0xC000 0x8A]
    [.a 0x75, .f 0x00, .pc 0x0101] = true := by
  decide

/-- 95_test_vectors.md A8-45. -/
theorem test_xorAN8 : stepGives
    [.pc 0x0100, .mem 0x0100 0xEE, .mem 0x0101 0xFF, .a 0x35, .f 0x00]
    [.a 0xCA, .f 0x00, .pc 0x0102] = true := by
  decide

/-- 95_test_vectors.md A16-1. -/
theorem test_addHLR16 : stepGives
    [.pc 0x0100, .mem 0x0100 0x09, .hl 0x8A23, .bc 0x0605, .f 0x80]
    [.hl 0x9028, .f 0xA0, .pc 0x0101] = true := by
  decide

/-- 95_test_vectors.md A16-6. -/
theorem test_addHLR16_more : stepGives
    [.pc 0x0100, .mem 0x0100 0x09, .hl 0xFFFF, .bc 0x0001, .f 0xC0]
    [.hl 0x0000, .f 0xB0, .pc 0x0101] = true := by
  decide

/-- 95_test_vectors.md A16-7. -/
theorem test_addHLSP : stepGives
    [.pc 0x0100, .mem 0x0100 0x39, .hl 0x1000, .sp 0xF000, .f 0x00]
    [.hl 0x0000, .sp 0xF000, .f 0x10, .pc 0x0101] = true := by
  decide

/-- 95_test_vectors.md A16-9. -/
theorem test_addSPE8 : stepGives
    [.pc 0x0100, .mem 0x0100 0xE8, .mem 0x0101 0x02, .sp 0xFFF8, .f 0xF0]
    [.sp 0xFFFA, .f 0x00, .pc 0x0102] = true := by
  decide

/-- 95_test_vectors.md A16-11. -/
theorem test_addSPE8_more : stepGives
    [.pc 0x0100, .mem 0x0100 0xE8, .mem 0x0101 0xFF, .sp 0x0000, .f 0x00]
    [.sp 0xFFFF, .f 0x00, .pc 0x0102] = true := by
  decide

/-- 95_test_vectors.md A16-17. -/
theorem test_decR16 : stepGives
    [.pc 0x0100, .mem 0x0100 0x0B, .bc 0x0000, .f 0xF0]
    [.bc 0xFFFF, .f 0xF0, .pc 0x0101] = true := by
  decide

/-- 95_test_vectors.md A16-20. -/
theorem test_decSP : stepGives
    [.pc 0x0100, .mem 0x0100 0x3B, .sp 0x0000, .f 0x00]
    [.sp 0xFFFF, .f 0x00, .pc 0x0101] = true := by
  decide

/-- 95_test_vectors.md A16-21. -/
theorem test_incR16 : stepGives
    [.pc 0x0100, .mem 0x0100 0x03, .bc 0xFFFF, .f 0x00]
    [.bc 0x0000, .f 0x00, .pc 0x0101] = true := by
  decide

/-- 95_test_vectors.md A16-24. -/
theorem test_incSP : stepGives
    [.pc 0x0100, .mem 0x0100 0x33, .sp 0xFFFF, .f 0x00]
    [.sp 0x0000, .f 0x00, .pc 0x0101] = true := by
  decide

/-- 95_test_vectors.md BI-1. -/
theorem test_bitR8 : stepGives
    [.pc 0x0100, .mem 0x0100 0xCB, .mem 0x0101 0x7F, .a 0x80, .f 0x10]
    [.a 0x80, .f 0x30, .pc 0x0102] = true := by
  decide

/-- 95_test_vectors.md BI-3. -/
theorem test_bitR8_more : stepGives
    [.pc 0x0100, .mem 0x0100 0xCB, .mem 0x0101 0x65, .l 0xEF, .f 0xC0]
    [.l 0xEF, .f 0xA0, .pc 0x0102] = true := by
  decide

/-- 95_test_vectors.md BI-4. -/
theorem test_bitAtHL : stepGives
    [.pc 0x0100, .mem 0x0100 0xCB, .mem 0x0101 0x66, .hl 0xC000, .f 0x00, .mem 0xC000 0x10]
    [.mem 0xC000 0x10, .f 0x20, .pc 0x0102] = true := by
  decide

/-- 95_test_vectors.md BI-6. -/
theorem test_resR8 : stepGives
    [.pc 0x0100, .mem 0x0100 0xCB, .mem 0x0101 0x87, .a 0xFF, .f 0xF0]
    [.a 0xFE, .f 0xF0, .pc 0x0102] = true := by
  decide

/-- 95_test_vectors.md BI-8. -/
theorem test_resAtHL : stepGives
    [.pc 0x0100, .mem 0x0100 0xCB, .mem 0x0101 0x9E, .hl 0xC000, .f 0x00, .mem 0xC000 0xFF]
    [.mem 0xC000 0xF7, .f 0x00, .pc 0x0102] = true := by
  decide

/-- 95_test_vectors.md BI-10. -/
theorem test_setR8 : stepGives
    [.pc 0x0100, .mem 0x0100 0xCB, .mem 0x0101 0xD8, .b 0x00, .f 0x00]
    [.b 0x08, .f 0x00, .pc 0x0102] = true := by
  decide

/-- 95_test_vectors.md BI-12. -/
theorem test_setAtHL : stepGives
    [.pc 0x0100, .mem 0x0100 0xCB, .mem 0x0101 0xFE, .hl 0xC000, .f 0xF0, .mem 0xC000 0x00]
    [.mem 0xC000 0x80, .f 0xF0, .pc 0x0102] = true := by
  decide

/-- 95_test_vectors.md BI-11. -/
theorem test_swapR8 : stepGives
    [.pc 0x0100, .mem 0x0100 0xCB, .mem 0x0101 0x37, .a 0xF0, .f 0xF0]
    [.a 0x0F, .f 0x00, .pc 0x0102] = true := by
  decide

/-- the example of 42_bit.md rule R226. -/
theorem test_swapR8_more : stepGives
    [.pc 0x0100, .mem 0x0100 0xCB, .mem 0x0101 0x37, .a 0xF1, .f 0xF0]
    [.a 0x1F, .f 0x00, .pc 0x0102] = true := by
  decide

/-- 95_test_vectors.md BI-15. -/
theorem test_swapAtHL : stepGives
    [.pc 0x0100, .mem 0x0100 0xCB, .mem 0x0101 0x36, .hl 0xC000, .f 0x00, .mem 0xC000 0x12]
    [.mem 0xC000 0x21, .f 0x00, .pc 0x0102] = true := by
  decide

/-- 95_test_vectors.md RS-1. -/
theorem test_rlR8 : stepGives
    [.pc 0x0100, .mem 0x0100 0xCB, .mem 0x0101 0x10, .b 0x80, .f 0x00]
    [.b 0x00, .f 0x90, .pc 0x0102] = true := by
  decide

/-- 95_test_vectors.md RS-2. -/
theorem test_rlR8_more : stepGives
    [.pc 0x0100, .mem 0x0100 0xCB, .mem 0x0101 0x11, .c 0x11, .f 0x10]
    [.c 0x23, .f 0x00, .pc 0x0102] = true := by
  decide

/-- 95_test_vectors.md RS-3. -/
theorem test_rlAtHL : stepGives
    [.pc 0x0100, .mem 0x0100 0xCB, .mem 0x0101 0x16, .hl 0xC000, .f 0x10, .mem 0xC000 0x85]
    [.mem 0xC000 0x0B, .f 0x10, .pc 0x0102] = true := by
  decide

/-- 95_test_vectors.md RS-4. -/
theorem test_rla : stepGives
    [.pc 0x0100, .mem 0x0100 0x17, .a 0x80, .f 0x00]
    [.a 0x00, .f 0x10, .pc 0x0101] = true := by
  decide

/-- the example of 43_rotate_shift.md rule R243. -/
theorem test_rla_more : stepGives
    [.pc 0x0100, .mem 0x0100 0x17, .a 0x95, .f 0x90]
    [.a 0x2B, .f 0x10, .pc 0x0101] = true := by
  decide

/-- 95_test_vectors.md RS-6. -/
theorem test_rlcR8 : stepGives
    [.pc 0x0100, .mem 0x0100 0xCB, .mem 0x0101 0x00, .b 0x85, .f 0x00]
    [.b 0x0B, .f 0x10, .pc 0x0102] = true := by
  decide

/-- 95_test_vectors.md RS-8. -/
theorem test_rlcAtHL : stepGives
    [.pc 0x0100, .mem 0x0100 0xCB, .mem 0x0101 0x06, .hl 0xC000, .f 0x00, .mem 0xC000 0x80]
    [.mem 0xC000 0x01, .f 0x10, .pc 0x0102] = true := by
  decide

/-- 95_test_vectors.md RS-9. -/
theorem test_rlca : stepGives
    [.pc 0x0100, .mem 0x0100 0x07, .a 0x85, .f 0x00]
    [.a 0x0B, .f 0x10, .pc 0x0101] = true := by
  decide

/-- 95_test_vectors.md RS-11. -/
theorem test_rrR8 : stepGives
    [.pc 0x0100, .mem 0x0100 0xCB, .mem 0x0101 0x19, .c 0x01, .f 0x00]
    [.c 0x00, .f 0x90, .pc 0x0102] = true := by
  decide

/-- the example of 43_rotate_shift.md rule R247. -/
theorem test_rrR8_more : stepGives
    [.pc 0x0100, .mem 0x0100 0xCB, .mem 0x0101 0x1F, .a 0x01, .f 0x00]
    [.a 0x00, .f 0x90, .pc 0x0102] = true := by
  decide

/-- 95_test_vectors.md RS-13. -/
theorem test_rrAtHL : stepGives
    [.pc 0x0100, .mem 0x0100 0xCB, .mem 0x0101 0x1E, .hl 0xC000, .f 0x10, .mem 0xC000 0x00]
    [.mem 0xC000 0x80, .f 0x00, .pc 0x0102] = true := by
  decide

/-- 95_test_vectors.md RS-14. -/
theorem test_rra : stepGives
    [.pc 0x0100, .mem 0x0100 0x1F, .a 0x81, .f 0x00]
    [.a 0x40, .f 0x10, .pc 0x0101] = true := by
  decide

/-- 95_test_vectors.md RS-16. -/
theorem test_rrcR8 : stepGives
    [.pc 0x0100, .mem 0x0100 0xCB, .mem 0x0101 0x08, .b 0x01, .f 0x00]
    [.b 0x80, .f 0x10, .pc 0x0102] = true := by
  decide

/-- 95_test_vectors.md RS-17. -/
theorem test_rrcAtHL : stepGives
    [.pc 0x0100, .mem 0x0100 0xCB, .mem 0x0101 0x0E, .hl 0xC000, .f 0x10, .mem 0xC000 0x00]
    [.mem 0xC000 0x00, .f 0x80, .pc 0x0102] = true := by
  decide

/-- 95_test_vectors.md RS-18. -/
theorem test_rrca : stepGives
    [.pc 0x0100, .mem 0x0100 0x0F, .a 0x3B, .f 0x00]
    [.a 0x9D, .f 0x10, .pc 0x0101] = true := by
  decide

/-- 95_test_vectors.md RS-19. -/
theorem test_slaR8 : stepGives
    [.pc 0x0100, .mem 0x0100 0xCB, .mem 0x0101 0x20, .b 0x80, .f 0x00]
    [.b 0x00, .f 0x90, .pc 0x0102] = true := by
  decide

/-- 95_test_vectors.md RS-21. -/
theorem test_slaAtHL : stepGives
    [.pc 0x0100, .mem 0x0100 0xCB, .mem 0x0101 0x26, .hl 0xC000, .f 0x10, .mem 0xC000 0x01]
    [.mem 0xC000 0x02, .f 0x00, .pc 0x0102] = true := by
  decide

/-- 95_test_vectors.md RS-22. -/
theorem test_sraR8 : stepGives
    [.pc 0x0100, .mem 0x0100 0xCB, .mem 0x0101 0x2A, .d 0x8A, .f 0x00]
    [.d 0xC5, .f 0x00, .pc 0x0102] = true := by
  decide

/-- the example of 43_rotate_shift.md rule R255. -/
theorem test_sraR8_more : stepGives
    [.pc 0x0100, .mem 0x0100 0xCB, .mem 0x0101 0x2F, .a 0x8A, .f 0x10]
    [.a 0xC5, .f 0x00, .pc 0x0102] = true := by
  decide

/-- 95_test_vectors.md RS-25. -/
theorem test_sraAtHL : stepGives
    [.pc 0x0100, .mem 0x0100 0xCB, .mem 0x0101 0x2E, .hl 0xC000, .f 0x00, .mem 0xC000 0x80]
    [.mem 0xC000 0xC0, .f 0x00, .pc 0x0102] = true := by
  decide

/-- 95_test_vectors.md RS-26. -/
theorem test_srlR8 : stepGives
    [.pc 0x0100, .mem 0x0100 0xCB, .mem 0x0101 0x3F, .a 0x01, .f 0x00]
    [.a 0x00, .f 0x90, .pc 0x0102] = true := by
  decide

/-- 95_test_vectors.md RS-28. -/
theorem test_srlAtHL : stepGives
    [.pc 0x0100, .mem 0x0100 0xCB, .mem 0x0101 0x3E, .hl 0xC000, .f 0x10, .mem 0xC000 0x80]
    [.mem 0xC000 0x40, .f 0x00, .pc 0x0102] = true := by
  decide

/-- 95_test_vectors.md LD-1. -/
theorem test_ldR8R8 : stepGives
    [.pc 0x0100, .mem 0x0100 0x41, .b 0x00, .c 0x5A, .f 0xF0]
    [.b 0x5A, .c 0x5A, .f 0xF0, .pc 0x0101] = true := by
  decide

/-- 95_test_vectors.md LD-3. -/
theorem test_ldR8N8 : stepGives
    [.pc 0x0100, .mem 0x0100 0x06, .mem 0x0101 0xFF, .b 0x00]
    [.b 0xFF, .pc 0x0102] = true := by
  decide

/-- 95_test_vectors.md LD-4. -/
theorem test_ldR16N16 : stepGives
    [.pc 0x0100, .mem 0x0100 0x01, .mem 0x0101 0x34, .mem 0x0102 0x12]
    [.bc 0x1234, .b 0x12, .c 0x34, .pc 0x0103] = true := by
  decide

/-- 95_test_vectors.md LD-6. -/
theorem test_ldAtHLR8 : stepGives
    [.pc 0x0100, .mem 0x0100 0x70, .b 0xAB, .hl 0xC000]
    [.mem 0xC000 0xAB, .hl 0xC000, .pc 0x0101] = true := by
  decide

/-- 95_test_vectors.md LD-8. -/
theorem test_ldAtHLN8 : stepGives
    [.pc 0x0100, .mem 0x0100 0x36, .mem 0x0101 0x5A, .hl 0xC000]
    [.mem 0xC000 0x5A, .hl 0xC000, .pc 0x0102] = true := by
  decide

/-- 95_test_vectors.md LD-9. -/
theorem test_ldR8AtHL : stepGives
    [.pc 0x0100, .mem 0x0100 0x46, .hl 0xC000, .mem 0xC000 0x77]
    [.b 0x77, .hl 0xC000, .pc 0x0101] = true := by
  decide

/-- the example of 44_load.md rule R285. -/
theorem test_ldR8AtHL_more : stepGives
    [.pc 0x0100, .mem 0x0100 0x66, .hl 0xC000, .mem 0xC000 0x5C]
    [.hl 0x5C00, .pc 0x0101] = true := by
  decide

/-- 95_test_vectors.md LD-12. -/
theorem test_ldAtR16A : stepGives
    [.pc 0x0100, .mem 0x0100 0x02, .a 0x11, .bc 0xC001]
    [.mem 0xC001 0x11, .bc 0xC001, .pc 0x0101] = true := by
  decide

/-- 95_test_vectors.md LD-15. -/
theorem test_ldAtN16A : stepGives
    [.pc 0x0100, .mem 0x0100 0xEA, .mem 0x0101 0x00, .mem 0x0102 0xC0, .a 0x33]
    [.mem 0xC000 0x33, .pc 0x0103] = true := by
  decide

/-- 95_test_vectors.md LD-10. -/
theorem test_ldHighN8A : stepGives
    [.pc 0x0100, .mem 0x0100 0xE0, .mem 0x0101 0x80, .a 0x42]
    [.mem 0xFF80 0x42, .pc 0x0102] = true := by
  decide

/-- 95_test_vectors.md LD-17. -/
theorem test_ldHighCA : stepGives
    [.pc 0x0100, .mem 0x0100 0xE2, .a 0x66, .c 0x81]
    [.mem 0xFF81 0x66, .c 0x81, .pc 0x0101] = true := by
  decide

/-- 95_test_vectors.md LD-18. -/
theorem test_ldAAtR16 : stepGives
    [.pc 0x0100, .mem 0x0100 0x0A, .bc 0xC001, .mem 0xC001 0x12]
    [.a 0x12, .bc 0xC001, .pc 0x0101] = true := by
  decide

/-- 95_test_vectors.md LD-20. -/
theorem test_ldAAtN16 : stepGives
    [.pc 0x0100, .mem 0x0100 0xFA, .mem 0x0101 0x00, .mem 0x0102 0xC0, .mem 0xC000 0x56]
    [.a 0x56, .pc 0x0103] = true := by
  decide

/-- 95_test_vectors.md LD-14. -/
theorem test_ldAHighN8 : stepGives
    [.pc 0x0100, .mem 0x0100 0xF0, .mem 0x0101 0x80, .a 0x00, .mem 0xFF80 0x5A]
    [.a 0x5A, .pc 0x0102] = true := by
  decide

/-- 95_test_vectors.md LD-21. -/
theorem test_ldAHighC : stepGives
    [.pc 0x0100, .mem 0x0100 0xF2, .c 0xFF, .mem 0xFFFF 0x1F]
    [.a 0x1F, .c 0xFF, .pc 0x0101] = true := by
  decide

/-- 95_test_vectors.md LD-22. -/
theorem test_ldAtHLIncA : stepGives
    [.pc 0x0100, .mem 0x0100 0x22, .a 0x77, .hl 0xC0FF]
    [.mem 0xC0FF 0x77, .hl 0xC100, .pc 0x0101] = true := by
  decide

/-- 95_test_vectors.md LD-25. -/
theorem test_ldAtHLDecA : stepGives
    [.pc 0x0100, .mem 0x0100 0x32, .a 0x79, .hl 0xC100]
    [.mem 0xC100 0x79, .hl 0xC0FF, .pc 0x0101] = true := by
  decide

/-- the example of 44_load.md rule R295. -/
theorem test_ldAtHLDecA_more : stepGives
    [.pc 0x0100, .mem 0x0100 0x32, .a 0x22, .hl 0xC100, .mem 0xC100 0x00]
    [.mem 0xC100 0x22, .hl 0xC0FF, .pc 0x0101] = true := by
  decide

/-- 95_test_vectors.md LD-27. -/
theorem test_ldAAtHLInc : stepGives
    [.pc 0x0100, .mem 0x0100 0x2A, .hl 0xC000, .mem 0xC000 0x9A]
    [.a 0x9A, .hl 0xC001, .pc 0x0101] = true := by
  decide

/-- 95_test_vectors.md LD-28. -/
theorem test_ldAAtHLDec : stepGives
    [.pc 0x0100, .mem 0x0100 0x3A, .hl 0xC000, .mem 0xC000 0x9B]
    [.a 0x9B, .hl 0xBFFF, .pc 0x0101] = true := by
  decide

/-- 95_test_vectors.md LD-30. -/
theorem test_ldSPN16 : stepGives
    [.pc 0x0100, .mem 0x0100 0x31, .mem 0x0101 0xFE, .mem 0x0102 0xFF]
    [.sp 0xFFFE, .pc 0x0103] = true := by
  decide

/-- 95_test_vectors.md LD-24. -/
theorem test_ldAtN16SP : stepGives
    [.pc 0x0100, .mem 0x0100 0x08, .mem 0x0101 0x00, .mem 0x0102 0xC1, .sp 0xFFF8]
    [.mem 0xC100 0xF8, .mem 0xC101 0xFF, .sp 0xFFF8, .pc 0x0103] = true := by
  decide

/-- 95_test_vectors.md LD-31. -/
theorem test_ldAtN16SP_more : stepGives
    [.pc 0x0100, .mem 0x0100 0x08, .mem 0x0101 0xFF, .mem 0x0102 0xFF, .sp 0x1234]
    [.mem 0xFFFF 0x34, .mem 0x0000 0x12, .sp 0x1234, .pc 0x0103] = true := by
  decide

/-- 95_test_vectors.md LD-32. -/
theorem test_ldHLSPE8 : stepGives
    [.pc 0x0100, .mem 0x0100 0xF8, .mem 0x0101 0x02, .sp 0xFFF8, .f 0xF0]
    [.hl 0xFFFA, .sp 0xFFF8, .f 0x00, .pc 0x0102] = true := by
  decide

/-- 95_test_vectors.md LD-34. -/
theorem test_ldHLSPE8_more : stepGives
    [.pc 0x0100, .mem 0x0100 0xF8, .mem 0x0101 0xFE, .sp 0x0000, .f 0x00]
    [.hl 0xFFFE, .sp 0x0000, .f 0x00, .pc 0x0102] = true := by
  decide

/-- 95_test_vectors.md LD-36. -/
theorem test_ldSPHL : stepGives
    [.pc 0x0100, .mem 0x0100 0xF9, .hl 0xD000, .sp 0x0000, .f 0xF0]
    [.sp 0xD000, .hl 0xD000, .f 0xF0, .pc 0x0101] = true := by
  decide

/-- 95_test_vectors.md CT-1. -/
theorem test_callN16 : stepGives
    [.pc 0x0100, .mem 0x0100 0xCD, .mem 0x0101 0x34, .mem 0x0102 0x12, .sp 0xD000]
    [.pc 0x1234, .sp 0xCFFE, .mem 0xCFFF 0x01, .mem 0xCFFE 0x03] = true := by
  decide

/-- 95_test_vectors.md CT-2. -/
theorem test_callCcN16 : stepGives
    [.pc 0x0100, .mem 0x0100 0xC4, .mem 0x0101 0x34, .mem 0x0102 0x12, .sp 0xD000, .f 0x00]
    [.pc 0x1234, .sp 0xCFFE, .mem 0xCFFF 0x01, .mem 0xCFFE 0x03] = true := by
  decide

/-- 95_test_vectors.md CT-3. -/
theorem test_callCcN16_more : stepGives
    [.pc 0x0100, .mem 0x0100 0xC4, .mem 0x0101 0x34, .mem 0x0102 0x12, .sp 0xD000, .f 0x80]
    [.pc 0x0103, .sp 0xD000, .mem 0xCFFF 0x00, .mem 0xCFFE 0x00] = true := by
  decide

/-- 95_test_vectors.md CT-5. -/
theorem test_jpN16 : stepGives
    [.pc 0x0100, .mem 0x0100 0xC3, .mem 0x0101 0x50, .mem 0x0102 0x01]
    [.pc 0x0150] = true := by
  decide

/-- 95_test_vectors.md CT-6. -/
theorem test_jpCcN16 : stepGives
    [.pc 0x0100, .mem 0x0100 0xCA, .mem 0x0101 0x50, .mem 0x0102 0x01, .f 0x80]
    [.pc 0x0150] = true := by
  decide

/-- 95_test_vectors.md CT-8. -/
theorem test_jpCcN16_more : stepGives
    [.pc 0x0100, .mem 0x0100 0xCA, .mem 0x0101 0x50, .mem 0x0102 0x01, .f 0x00]
    [.pc 0x0103] = true := by
  decide

/-- 95_test_vectors.md CT-7. -/
theorem test_jpHL : stepGives
    [.pc 0x0100, .mem 0x0100 0xE9, .hl 0xC123, .mem 0xC123 0x99]
    [.pc 0xC123, .hl 0xC123] = true := by
  decide

/-- 95_test_vectors.md CT-10. -/
theorem test_jrE8 : stepGives
    [.pc 0x0100, .mem 0x0100 0x18, .mem 0x0101 0x05]
    [.pc 0x0107] = true := by
  decide

/-- the example of 45_control.md rule R325. -/
theorem test_jrE8_more : stepGives
    [.pc 0x0100, .mem 0x0100 0x18, .mem 0x0101 0xFC]
    [.pc 0x00FE] = true := by
  decide

/-- 95_test_vectors.md CT-17. -/
theorem test_jrCcE8 : stepGives
    [.pc 0x0100, .mem 0x0100 0x20, .mem 0x0101 0x05, .f 0x00]
    [.pc 0x0107] = true := by
  decide

/-- 95_test_vectors.md CT-18. -/
theorem test_jrCcE8_more : stepGives
    [.pc 0x0100, .mem 0x0100 0x20, .mem 0x0101 0x05, .f 0x80]
    [.pc 0x0102] = true := by
  decide

/-- 95_test_vectors.md CT-22. -/
theorem test_ret : stepGives
    [.pc 0x1234, .mem 0x1234 0xC9, .sp 0xCFFE, .mem 0xCFFE 0x03, .mem 0xCFFF 0x01]
    [.pc 0x0103, .sp 0xD000] = true := by
  decide

/-- 95_test_vectors.md CT-23. -/
theorem test_retCc : stepGives
    [.pc 0x1234, .mem 0x1234 0xC0, .sp 0xCFFE, .f 0x00, .mem 0xCFFE 0x03, .mem 0xCFFF 0x01]
    [.pc 0x0103, .sp 0xD000] = true := by
  decide

/-- 95_test_vectors.md CT-24. -/
theorem test_retCc_more : stepGives
    [.pc 0x1234, .mem 0x1234 0xC0, .sp 0xCFFE, .f 0x80, .mem 0xCFFE 0x03, .mem 0xCFFF 0x01]
    [.pc 0x1235, .sp 0xCFFE] = true := by
  decide

/-- 95_test_vectors.md CT-26. -/
theorem test_reti : stepGives
    [.pc 0x0045, .mem 0x0045 0xD9, .sp 0xCFFE, .ime false, .mem 0xCFFE 0x03, .mem 0xCFFF 0x01]
    [.pc 0x0103, .sp 0xD000, .ime true, .ei false] = true := by
  decide

/-- 95_test_vectors.md CT-27. -/
theorem test_rstVec : stepGives
    [.pc 0x0100, .mem 0x0100 0xC7, .sp 0xD000]
    [.pc 0x0000, .sp 0xCFFE, .mem 0xCFFF 0x01, .mem 0xCFFE 0x01] = true := by
  decide

/-- the example of 45_control.md rule R330. -/
theorem test_rstVec_more : stepGives
    [.pc 0x0100, .mem 0x0100 0xEF, .sp 0xFFFE]
    [.pc 0x0028, .sp 0xFFFC, .mem 0xFFFD 0x01, .mem 0xFFFC 0x01] = true := by
  decide

/-- 95_test_vectors.md ST-8. -/
theorem test_popAF : stepGives
    [.pc 0x0100, .mem 0x0100 0xF1, .sp 0xCFFE, .f 0x00, .mem 0xCFFE 0xFF, .mem 0xCFFF 0x12]
    [.a 0x12, .f 0xF0, .sp 0xD000, .pc 0x0101] = true := by
  decide

/-- 95_test_vectors.md ST-9. -/
theorem test_popAF_more : stepGives
    [.pc 0x0100, .mem 0x0100 0xF1, .sp 0xCFFE, .f 0xF0, .mem 0xCFFE 0x0F, .mem 0xCFFF 0x00]
    [.a 0x00, .f 0x00, .sp 0xD000, .pc 0x0101] = true := by
  decide

/-- 95_test_vectors.md ST-5. -/
theorem test_popR16 : stepGives
    [.pc 0x0100, .mem 0x0100 0xC1, .sp 0xCFFE, .mem 0xCFFE 0x34, .mem 0xCFFF 0x12]
    [.bc 0x1234, .b 0x12, .c 0x34, .sp 0xD000, .mem 0xCFFE 0x34, .mem 0xCFFF 0x12, .pc 0x0101] = true := by
  decide

/-- the example of 46_stack.md rule R351. -/
theorem test_popR16_more : stepGives
    [.pc 0x0100, .mem 0x0100 0xC1, .sp 0xFFFC, .bc 0x0000, .mem 0xFFFC 0x34, .mem 0xFFFD 0x12]
    [.bc 0x1234, .b 0x12, .c 0x34, .sp 0xFFFE, .pc 0x0101] = true := by
  decide

/-- 95_test_vectors.md ST-4. -/
theorem test_pushAF : stepGives
    [.pc 0x0100, .mem 0x0100 0xF5, .a 0x12, .f 0xB0, .sp 0xD000]
    [.mem 0xCFFF 0x12, .mem 0xCFFE 0xB0, .sp 0xCFFE, .pc 0x0101] = true := by
  decide

/-- 95_test_vectors.md ST-1. -/
theorem test_pushR16 : stepGives
    [.pc 0x0100, .mem 0x0100 0xC5, .bc 0x1234, .sp 0xD000]
    [.mem 0xCFFF 0x12, .mem 0xCFFE 0x34, .sp 0xCFFE, .bc 0x1234, .pc 0x0101] = true := by
  decide

/-- the example of 46_stack.md rule R353. -/
theorem test_pushR16_more : stepGives
    [.pc 0x0100, .mem 0x0100 0xE5, .hl 0xC0DE, .sp 0xFFFE]
    [.mem 0xFFFD 0xC0, .mem 0xFFFC 0xDE, .sp 0xFFFC, .hl 0xC0DE, .pc 0x0101] = true := by
  decide

/-- 95_test_vectors.md MI-1. -/
theorem test_ccf : stepGives
    [.pc 0x0100, .mem 0x0100 0x3F, .a 0x42, .f 0xF0]
    [.a 0x42, .f 0x80, .pc 0x0101] = true := by
  decide

/-- 95_test_vectors.md MI-4. -/
theorem test_cpl : stepGives
    [.pc 0x0100, .mem 0x0100 0x2F, .a 0x35, .f 0x00]
    [.a 0xCA, .f 0x60, .pc 0x0101] = true := by
  decide

/-- the example of 47_misc.md rule R364. -/
theorem test_daa : stepGives
    [.pc 0x0100, .mem 0x0100 0x27, .a 0x7D, .f 0x00]
    [.a 0x83, .f 0x00, .pc 0x0101] = true := by
  decide

/-- the example of 47_misc.md rule R364. -/
theorem test_daa_more : stepGives
    [.pc 0x0100, .mem 0x0100 0x27, .a 0x4B, .f 0x60]
    [.a 0x45, .f 0x40, .pc 0x0101] = true := by
  decide

/-- 95_test_vectors.md MI-7. -/
theorem test_di : stepGives
    [.pc 0x0100, .mem 0x0100 0xF3, .ime true]
    [.ime false, .ei false, .pc 0x0101] = true := by
  decide

/-- 95_test_vectors.md MI-8. -/
theorem test_di_more : stepGives
    [.pc 0x0100, .mem 0x0100 0xF3, .ime false, .ei true]
    [.ime false, .ei false, .pc 0x0101] = true := by
  decide

/-- 95_test_vectors.md MI-9. -/
theorem test_ei : stepGives
    [.pc 0x0100, .mem 0x0100 0xFB, .ime false]
    [.ime false, .ei true, .pc 0x0101] = true := by
  decide

/-- 95_test_vectors.md MI-14. -/
theorem test_halt : stepGives
    [.pc 0x0100, .mem 0x0100 0x76, .ime false, .mem 0xFFFF 0x00, .mem 0xFF0F 0x00]
    [.mode .halted, .ime false, .pc 0x0101] = true := by
  decide

/-- 95_test_vectors.md MI-15. -/
theorem test_halt_more : stepGives
    [.pc 0x0100, .mem 0x0100 0x76, .ime true, .mem 0xFFFF 0x01, .mem 0xFF0F 0x02]
    [.mode .halted, .ime true, .pc 0x0101] = true := by
  decide

/-- 95_test_vectors.md MI-6. -/
theorem test_nop : stepGives
    [.pc 0x0100, .mem 0x0100 0x00, .a 0x12, .f 0xF0, .sp 0x1234]
    [.a 0x12, .f 0xF0, .sp 0x1234, .pc 0x0101] = true := by
  decide

/-- 95_test_vectors.md MI-3. -/
theorem test_scf : stepGives
    [.pc 0x0100, .mem 0x0100 0x37, .f 0xE0]
    [.f 0x90, .pc 0x0101] = true := by
  decide

/-- 95_test_vectors.md MI-16. -/
theorem test_stop : stepGives
    [.pc 0x0100, .mem 0x0100 0x10, .mem 0x0101 0x00]
    [.mode .stopped, .pc 0x0102] = true := by
  decide

/-- 95_test_vectors.md MI-17. -/
theorem test_stop_more : stepGives
    [.pc 0x0100, .mem 0x0100 0x10, .mem 0x0101 0x5A]
    [.mode .stopped, .pc 0x0102] = true := by
  decide

/-! ### Decoding: words written out from the encodings -/

/-- The bytes decode to the instruction, with nothing left over. -/
def reads (bytes : List Byte) (i : Instr) : Bool :=
  match decode bytes with
  | .ok (j, []) => decide (j = i)
  | _ => false

/-- `10 ooo rrr`, the operation codes of 30_encoding.md rule R111, and `11 ooo 110 nnnnnnnn`. -/
theorem test_decode_alu8 :
    [(0b10000000, .addAR8 .b), (0b10001001, .adcAR8 .c), (0b10010010, .subAR8 .d),
     (0b10011011, .sbcAR8 .e), (0b10100100, .andAR8 .h), (0b10101101, .xorAR8 .l),
     (0b10110111, .orAR8 .a), (0b10111000, .cpAR8 .b), (0b10000110, .addAAtHL),
     (0b10001110, .adcAAtHL), (0b10010110, .subAAtHL), (0b10011110, .sbcAAtHL),
     (0b10100110, .andAAtHL), (0b10101110, .xorAAtHL), (0b10110110, .orAAtHL),
     (0b10111110, .cpAAtHL), (0b00111100, .incR8 .a), (0b00110100, .incAtHL),
     (0b00101101, .decR8 .l), (0b00110101, .decAtHL)].all (fun p : Byte × Instr =>
        reads [p.1] p.2) = true ∧
    [(0b11000110, .addAN8 0x5A), (0b11001110, .adcAN8 0x5A), (0b11010110, .subAN8 0x5A),
     (0b11011110, .sbcAN8 0x5A), (0b11100110, .andAN8 0x5A), (0b11101110, .xorAN8 0x5A),
     (0b11110110, .orAN8 0x5A), (0b11111110, .cpAN8 0x5A)].all (fun p : Byte × Instr =>
        reads [p.1, 0x5A] p.2) = true := by
  decide

/-- `00 pp 1001`, `00 pp 0011`, `00 pp 1011` with `SP` as pair 3 (30_encoding.md rule R107), and
`ADD SP,e8`. -/
theorem test_decode_alu16 :
    reads [0x09] (.addHLR16 .bc) ∧ reads [0x29] (.addHLR16 .hl) ∧ reads [0x39] .addHLSP ∧
      reads [0xE8, 0xFE] (.addSPE8 0xFE) ∧ reads [0x03] (.incR16 .bc) ∧
      reads [0x13] (.incR16 .de) ∧ reads [0x33] .incSP ∧ reads [0x1B] (.decR16 .de) ∧
      reads [0x2B] (.decR16 .hl) ∧ reads [0x3B] .decSP := by
  decide

/-- The operation bytes of 30_encoding.md rules R113 and R115. -/
theorem test_decode_cb :
    [(0b00000000, .rlcR8 .b), (0b00000110, .rlcAtHL), (0b00001001, .rrcR8 .c),
     (0b00001110, .rrcAtHL), (0b00010010, .rlR8 .d), (0b00010110, .rlAtHL), (0b00011011, .rrR8 .e),
     (0b00011110, .rrAtHL), (0b00100100, .slaR8 .h), (0b00100110, .slaAtHL),
     (0b00101101, .sraR8 .l), (0b00101110, .sraAtHL), (0b00110111, .swapR8 .a), (0b00110110, .swapAtHL),
     (0b00111000, .srlR8 .b), (0b00111110, .srlAtHL), (0b01000000, .bitR8 0 .b),
     (0b01111111, .bitR8 7 .a), (0b01101110, .bitAtHL 5), (0b10010001, .resR8 2 .c),
     (0b10011110, .resAtHL 3), (0b11110010, .setR8 6 .d), (0b11100110, .setAtHL 4)].all
      (fun p : Byte × Instr => reads [0xCB, p.1] p.2) = true := by
  decide

/-- `00 0xx 111` (30_encoding.md rule R114). -/
theorem test_decode_accumulator :
    reads [0x07] .rlca ∧ reads [0x0F] .rrca ∧ reads [0x17] .rla ∧ reads [0x1F] .rra ∧
      reads [0x27] .daa ∧ reads [0x2F] .cpl ∧ reads [0x37] .scf ∧ reads [0x3F] .ccf := by
  decide

/-- The loads, with `n16` low byte first (30_encoding.md rules R105 and R114). -/
theorem test_decode_load :
    [([0b01000111], .ldR8R8 .b .a), ([0b01111000], .ldR8R8 .a .b),
     ([0b00001110, 0x12], .ldR8N8 .c 0x12), ([0x01, 0x34, 0x12], .ldR16N16 .bc 0x1234), ([0x21, 0xFF, 0x00], .ldR16N16 .hl 0x00FF),
     ([0b01110101], .ldAtHLR8 .l), ([0x36, 0xFF], .ldAtHLN8 0xFF), ([0b01100110], .ldR8AtHL .h),
     ([0x02], .ldAtR16A .bc), ([0x12], .ldAtR16A .de), ([0xEA, 0x34, 0x12], .ldAtN16A 0x1234),
     ([0xE0, 0x80], .ldHighN8A 0x80), ([0xE2], .ldHighCA), ([0x0A], .ldAAtR16 .bc),
     ([0x1A], .ldAAtR16 .de), ([0xFA, 0x34, 0x12], .ldAAtN16 0x1234),
     ([0xF0, 0x44], .ldAHighN8 0x44), ([0xF2], .ldAHighC), ([0x22], .ldAtHLIncA), ([0x32], .ldAtHLDecA), ([0x2A], .ldAAtHLInc),
     ([0x3A], .ldAAtHLDec), ([0x31, 0xFE, 0xFF], .ldSPN16 0xFFFE),
     ([0x08, 0xCD, 0xAB], .ldAtN16SP 0xABCD), ([0xF8, 0x02], .ldHLSPE8 0x02), ([0xF9], .ldSPHL)].all
      (fun p : List Byte × Instr => reads p.1 p.2) = true := by
  decide

/-- The control transfers, with the condition in the low two bits of `y` (30_encoding.md
rule R110). -/
theorem test_decode_control :
    [([0xCD, 0x34, 0x12], .callN16 0x1234), ([0b11000100, 0x34, 0x12], .callCcN16 .nz 0x1234),
     ([0b11011100, 0x00, 0x02], .callCcN16 .c 0x0200), ([0xC3, 0x50, 0x01], .jpN16 0x0150),
     ([0b11001010, 0x50, 0x01], .jpCcN16 .z 0x0150), ([0xE9], .jpHL), ([0x18, 0xFE], .jrE8 0xFE),
     ([0b00110000, 0x05], .jrCcE8 .nc 0x05), ([0xC9], .ret), ([0b11011000], .retCc .c),
     ([0xD9], .reti), ([0b11000111], .rstVec 0x00), ([0b11111111], .rstVec 0x38)].all
      (fun p : List Byte × Instr => reads p.1 p.2) = true := by
  decide

/-- The stack instructions, with `AF` as pair 3 (30_encoding.md rule R108), and the rest. -/
theorem test_decode_stack_misc :
    reads [0xC1] (.popR16 .bc) ∧ reads [0xE1] (.popR16 .hl) ∧ reads [0xF1] .popAF ∧
      reads [0xD5] (.pushR16 .de) ∧ reads [0xF5] .pushAF ∧ reads [0xF3] .di ∧ reads [0xFB] .ei ∧
      reads [0x76] .halt ∧ reads [0x00] .nop ∧ reads [0x10, 0x5A] (.stop 0x5A) := by
  decide

/-- The eleven bytes of 30_encoding.md rule R116. -/
theorem test_decode_illegal :
    reads [0xD3] .illegalD3 ∧ reads [0xDB] .illegalDB ∧ reads [0xDD] .illegalDD ∧
      reads [0xE3] .illegalE3 ∧ reads [0xE4] .illegalE4 ∧ reads [0xEB] .illegalEB ∧
      reads [0xEC] .illegalEC ∧ reads [0xED] .illegalED ∧ reads [0xF4] .illegalF4 ∧
      reads [0xFC] .illegalFC ∧ reads [0xFD] .illegalFD := by
  decide

/-- A list that ends inside an instruction is no instruction. -/
theorem test_decode_truncated :
    [([] : List Byte), [0x3E], [0xCB], [0xC3, 0x50]].all
      (fun bytes => match decode bytes with | .ok _ => false | .error e => decide (e = .truncated)) =
      true := by
  decide

/-- The opcode table's words: the first byte lowest, but a `CB_OP` row as prefix and operation byte
(log entry 8). -/
theorem test_table_words :
    decodeTableWord 8 0x88 = some (.adcAR8 .b) ∧ decodeTableWord 16 0x12CE = some (.adcAN8 0x12) ∧
      decodeTableWord 24 0x1234C3 = some (.jpN16 0x1234) ∧
      decodeTableWord 16 0xCB9E = some (.resAtHL 3) ∧ decodeTableWord 16 0x9ECB = some (.resAtHL 3) ∧
      decodeTableWord 8 0xC3 = some (.jpN16 0x0000) := by
  decide

/-- The very next step runs the instruction placed for it, after reset and with an interrupt
pending (log entry 7). -/
theorem test_withFetchWord :
    [State.reset, start [.pc 0xFFFE, .ime true, .mem 0xFFFF 0xFF, .mem 0xFF0F 0xFF]].all (fun s =>
      match step (s.withFetchWord 16 0x123E) with
      | .next t => decide (t = { s.withFetchWord 16 0x123E with a := 0x12, pc := s.pc + 2 })
      | _ => false) = true := by
  decide

/-! ### Well-formedness: an ill-formed term for each check -/

theorem test_wellFormed_refuses :
    (Instr.rstVec 0x01).WellFormed = false ∧ (Instr.rstVec 0x40).WellFormed = false ∧
      (Instr.ldAtR16A .hl).WellFormed = false ∧ (Instr.ldAAtR16 .hl).WellFormed = false := by
  decide

theorem test_wellFormed_accepts :
    (Instr.rstVec 0x38).WellFormed = true ∧ (Instr.ldAtR16A .de).WellFormed = true ∧
      (Instr.ldAAtR16 .bc).WellFormed = true ∧ (Instr.stop 0x5A).WellFormed = true := by
  decide

/-! ### The assembler level -/

/-- Lines of 95_test_vectors.md, and the synonyms of 30_encoding.md rules R127 and R128. -/
theorem test_assemble :
    assemble 0x0100 ⟨.jr, [.num 0x0100]⟩ = some (.jrE8 0xFE) ∧
      assemble 0x0100 ⟨.jr, [.reg .c, .num 0x00FD]⟩ = some (.jrCcE8 .c 0xFB) ∧
      assemble 0x0100 ⟨.jr, [.num 0x0300]⟩ = none ∧
      assemble 0x0100 ⟨.add, [.reg .b]⟩ = some (.addAR8 .b) ∧
      assemble 0x0100 ⟨.ldh, [.atNum 0xFF44, .reg .a]⟩ = some (.ldHighN8A 0x44) ∧
      assemble 0x0100 ⟨.ld, [.atPair .hl, .atPair .hl]⟩ = none ∧
      lineText ⟨.ld, [.pair .hl, .spPlus (-2)]⟩ = "LD HL,SP-2" := by
  decide

/-! ### Interrupts, `EI`, `HALT` and `STOP` in a step -/

/-- A state with `IE` and `IF` at the given values. -/
def withRequests (ie flags : Byte) (puts : List Put) : State :=
  start (puts ++ [.mem 0xFFFF ie, .mem 0xFF0F flags])

/-- The start under a policy. -/
def under (policy : HaltBugPolicy) (puts : List Put) : State :=
  let s := start puts
  { s with params.haltBugPolicy := policy }

/-- A machine with ROM below 0x8000, device registers from 0xFF00 to 0xFF7F, `IF` with its upper bits
read as 1, and an environment that moves, once the assignments are made. -/
def onBoard (puts : List Put) : State :=
  let s := start puts
  { s with params.platform :=
    { regions := [⟨0x0000, 0x7FFF, .rom⟩, ⟨0xFF0F, 0xFF0F, .ram 0xE0⟩, ⟨0xFF00, 0xFF7F, .device⟩]
      raises := true
      changes := true } }

/-- 60_exceptions.md rules R405 and R410: of `STAT` and `TIMER` the lower one; `PC` on the stack, its
bit of `IF` cleared, at 0x0048. -/
theorem test_dispatch : stepGives
    [.pc 0x1234, .sp 0xD000, .ime true, .mem 0xFFFF 0x06, .mem 0xFF0F 0xE6]
    [.pc 0x0048, .sp 0xCFFE, .ime false, .mem 0xCFFF 0x12, .mem 0xCFFE 0x34, .mem 0xFF0F 0xE4] =
      true := by
  decide

/-- The stack may lie over `IF`: the two bytes of `PC` are what stands there in the end
(60_exceptions.md rule R410). -/
theorem test_dispatch_stack_over_if : stepGives
    [.pc 0x1234, .sp 0xFF10, .ime true, .mem 0xFFFF 0x01, .mem 0xFF0F 0x01]
    [.pc 0x0040, .sp 0xFF0E, .ime false, .mem 0xFF0F 0x12, .mem 0xFF0E 0x34] = true := by
  decide

/-- A halted machine with a request and `IME = 0` goes on with the next instruction
(60_exceptions.md rule R425). -/
theorem test_wake_without_interrupt : stepGives
    [.pc 0x0101, .mode .halted, .mem 0x0101 0x3C, .mem 0xFFFF 0x04, .mem 0xFF0F 0x04]
    [.pc 0x0102, .mode .running, .a 0x01] = true := by
  decide

/-- 70_reset_and_hazards.md rule R461: in the bug condition the machine does not halt, and the byte
after the `HALT` is fetched twice. -/
theorem test_halt_bug : stepGives
    [.pc 0x0100, .mem 0x0100 0x76, .mem 0xFFFF 0x01, .mem 0xFF0F 0x01]
    [.pc 0x0101, .bug true] = true := by
  decide

theorem test_halt_bug_fetch : stepGives
    [.pc 0x0101, .bug true, .mem 0x0101 0x3E, .mem 0x0102 0x14, .mem 0xFFFF 0x01, .mem 0xFF0F 0x01]
    [.pc 0x0102, .bug false, .a 0x3E] = true := by
  decide

/-- Directly after an `EI` the bug condition is met like any other, and the `EI` takes effect at the end
of the step (90_conflicts.md C11); the next step dispatches, with the address after the `HALT`. -/
theorem test_ei_halt : stepGives
    [.pc 0x0100, .mem 0x0100 0x76, .ei true, .mem 0xFFFF 0x01, .mem 0xFF0F 0x01]
    [.pc 0x0101, .bug true, .ei false, .ime true] = true := by
  decide

/-- 95_test_vectors.md HA-5: the same under the policy `fault`, whose fault holds the state past the
`HALT`. -/
theorem test_halt_fault :
    (match step (under .fault [.pc 0x0100, .mem 0x0100 0x76, .mem 0xFFFF 0x01, .mem 0xFF0F 0x01]) with
      | .fault r => decide (r =
          .haltBug (under .fault [.pc 0x0101, .mem 0x0100 0x76, .mem 0xFFFF 0x01, .mem 0xFF0F 0x01]))
      | _ => false) = true := by
  decide

/-! ### Platforms (20_memory.md rules R71 and R80) -/

/-- A store to ROM leaves the byte, and the bank controller sees it. -/
theorem test_store_to_rom :
    (match step (onBoard [.pc 0xC000, .mem 0xC000 0x77, .hl 0x2000, .a 0x05]) with
      | .next t => decide (memGet t.mem 0x2000 = 0x00 ∧ t.devices = [.write 0x2000 0x05])
      | _ => false) = true := by
  decide

/-- A load from a device register gives what the device answers, and the device sees it. -/
theorem test_load_from_device :
    (match step (onBoard [.pc 0xC000, .mem 0xC000 0xF0, .mem 0xC001 0x04]) with
      | .next t => t.a = Config.deviceByte [] 0xFF04 ∧ t.devices = [.read 0xFF04] ∧ t.pc = 0xC002
      | _ => False) :=
  ⟨rfl, rfl, rfl⟩

/-- Bits 7 to 5 of `IF` read as 1 where the platform has them so; the stored byte keeps what was
written. -/
theorem test_load_from_if :
    (match step (onBoard [.pc 0xC000, .mem 0xC000 0xF0, .mem 0xC001 0x0F, .mem 0xFF0F 0x04]) with
      | .next t => decide (t.a = 0xE4 ∧ memGet t.mem 0xFF0F = 0x04 ∧ t.devices = [])
      | _ => false) = true := by
  decide

/-- The environment moves on the board, and never on flat RAM (20_memory.md rule R81). -/
theorem test_environment :
    let s := deviceMove 7 (environmentMove 0xFF (onBoard [.mem 0xFF0F 0x20]))
    let t := start [.mem 0xFF0F 0x20]
    (memGet s.mem 0xFF0F = 0x3F ∧ s.devices = [.change 7]) ∧
      deviceMove 7 (environmentMove 0xFF t) = t := by
  decide

/-- Halted with nothing pending: an end on flat RAM, none where a request may come; and at the stop
address it is the first end in the rule's order that is reported (70_reset_and_hazards.md rule R455, log
entry 17). -/
theorem test_run_ends :
    let s := start [.mode .halted, .mem 0xFFFF 0x01, .pc 0x0100]
    let t := onBoard [.mode .halted, .mem 0xFFFF 0x01, .pc 0x0100]
    runUntil (some 0x0100) 3 s = .haltedForever s ∧ runUntil none 3 t = .unfinished t ∧
      runUntil (some 0x0100) 3 t = .stopAddress t := by
  decide

/-- The instruction after an `EI` ends with `IME = 1` (70_reset_and_hazards.md rule R460). -/
theorem test_ei_delay : stepGives
    [.pc 0x0101, .mem 0x0101 0x00, .ei true, .mem 0xFFFF 0x01, .mem 0xFF0F 0x01]
    [.pc 0x0102, .ei false, .ime true] = true := by
  decide

/-- An illegal byte: the fault holds the byte and the state past it (30_encoding.md rule R116). -/
theorem test_illegal :
    (match step (start [.pc 0x0100, .mem 0x0100 0xDD]) with
      | .fault r => decide (r = .illegalOpcode 0xDD (start [.pc 0x0101, .mem 0x0100 0xDD]))
      | _ => false) = true := by
  decide

/-! ### For each statement with hypotheses, a state and operands that meet them -/

theorem witness_EncodeThenDecode :
    (Instr.rstVec 0x00).WellFormed = true ∧ (Instr.rstVec 0x38).WellFormed = true ∧
      (Instr.bitR8 7 .a).WellFormed = true := by
  decide

theorem witness_DecodeThenEncode : decode [0x10, 0x5A, 0x76] = .ok (.stop 0x5A, [0x76]) := rfl

theorem witness_DecodeIsTotal :
    (0xD3 : Byte) ∈ illegalRows.map Prod.fst ∧ (0xFD : Byte) ∈ illegalRows.map Prod.fst ∧
      (0xCB : Byte) ∉ illegalRows.map Prod.fst := by
  decide

/-- A target across the end of the address space, and `STOP` with its pad byte. -/
theorem witness_DisassembleThenAssemble :
    (Instr.jrE8 0x80).WellFormed = true ∧ (Instr.jrE8 0x80).isLegal = true ∧
      disassemble 0xFFFF (.jrE8 0x80) = some ⟨.jr, [.num 0xFF81]⟩ ∧
      disassemble 0x0000 (.stop 0x00) = some ⟨.stop, []⟩ ∧
      ∀ pad, Instr.jrE8 0x80 = .stop pad → pad = 0x00 :=
  ⟨rfl, rfl, by decide, by decide, fun _ h => by cases h⟩

/-- Running, at the last address, with an operand beyond it. -/
theorem witness_StepRunsDecoded :
    let s := start [.pc 0xFFFF, .mem 0xFFFF 0x3E, .mem 0x0000 0x12]
    (s.mode ≠ .stopped ∧ (s.mode = .halted → pending s ≠ 0) ∧
        ¬ (s.ime = true ∧ pending s ≠ 0) ∧ s.haltBug = false) ∧
      decode (readAll (codeAt s.pc) s).1 = .ok (.ldR8N8 .a 0x12, [0x00]) :=
  ⟨by decide, rfl⟩

/-- Halted, with something pending. -/
theorem witness_StepRunsDecoded_halted :
    let s := start [.mode .halted, .mem 0xFFFF 0x01, .mem 0xFF0F 0x01]
    (s.mode ≠ .stopped ∧ (s.mode = .halted → pending s ≠ 0) ∧
        ¬ (s.ime = true ∧ pending s ≠ 0) ∧ s.haltBug = false) ∧
      decode (readAll (codeAt s.pc) s).1 = .ok (.nop, [0x00, 0x00]) :=
  ⟨by decide, rfl⟩

theorem witness_HaltBugFetchesTwice :
    let s := start [.pc 0x0101, .bug true, .mem 0x0101 0x3E, .mem 0x0102 0x14]
    (s.mode = .running ∧ ¬ (s.ime = true ∧ pending s ≠ 0) ∧ s.haltBug = true) ∧
      decode (readAll [s.pc, s.pc, s.pc + 1] s).1 = .ok (.ldR8N8 .a 0x3E, [0x14]) :=
  ⟨by decide, rfl⟩

/-- The invariant with `halt_bug` set, in a state that steps. -/
theorem witness_InvKept :
    let s := start [.pc 0x0101, .bug true, .mem 0x0101 0x3C]
    Inv s ∧ s.haltBug = true ∧ ∃ t, step s = .next t :=
  ⟨⟨by decide, fun _ => ⟨rfl, rfl, rfl⟩⟩, rfl, _, rfl⟩

/-- The invariant under the policy `fault`, on a board with ROM and devices. -/
theorem witness_InvAtReset :
    let s := onBoard [.a 0x01]
    Initial (State.coreReset { s.params with haltBugPolicy := .fault } Unspecified.zero [] []) ∧
      Inv { s with params.haltBugPolicy := .fault } :=
  ⟨.inl ⟨_, _, _, _, rfl, by decide, rfl⟩, by decide, fun h => absurd h (by decide)⟩

/-- The three cases of a step: a byte that runs, an illegal one, and `HALT` under the policy
`fault`. -/
theorem witness_StepFaultCases :
    (∃ t, step State.reset = .next t) ∧
      peek (start [.mem 0x0000 0xDD]) 0x0000 ∈ illegalRows.map Prod.fst ∧
      let s := under .fault [.mem 0x0000 0x76, .mem 0xFFFF 0x01, .mem 0xFF0F 0x01]
      peek s s.pc = 0x76 ∧ s.params.haltBugPolicy = .fault ∧ s.ime = false ∧ pending s ≠ 0 :=
  ⟨⟨_, rfl⟩, by decide⟩

/-- A platform of plain RAM whose environment move may set bits of `IF`. -/
def raisingRAM : Platform := { Platform.flatRAM with raises := true }

/-- A state after reset over a program that enables `VBLANK` and halts, with an `EI` before the `HALT`
or an `LD A,A`. -/
def haltProgram (before : Byte) : State :=
  State.coreReset { resetParams with platform := raisingRAM } Unspecified.zero
    [(0x01, 0x3E), (0x02, 0x01), (0x03, 0xE0), (0x04, 0xFF), (0x05, before), (0x06, 0x76), (0x07, 0x3C)] []

/-- The program after four instructions and a request, at its `HALT`. -/
def atHalt : State :=
  environmentMove 0x01
    { haltProgram 0x7F with
      a := 0x01, pc := 0x0006, mem := memSet (haltProgram 0x7F).mem 0xFFFF 0x01 }

/-- The program with the `EI`, at its `HALT`. -/
def atHaltAfterEi : State :=
  environmentMove 0x01
    { haltProgram 0xFB with
      a := 0x01, pc := 0x0006, eiPending := true, mem := memSet (haltProgram 0xFB).mem 0xFFFF 0x01 }

theorem initial_haltProgram (before : Byte) (h : before ≠ 0x00) : Initial (haltProgram before) :=
  .inl ⟨_, Unspecified.zero, _, _, rfl, by
    refine ⟨by simp, ?_⟩
    simp only [List.mem_cons, List.not_mem_nil, or_false]
    rintro cell (rfl | rfl | rfl | rfl | rfl | rfl | rfl)
    all_goals exact ⟨by norm_num, by first | exact h | decide⟩, rfl⟩

theorem reachable_atHalt : Reachable atHalt :=
  .move 0x01 (.step (.step (.step (.step (.init (initial_haltProgram 0x7F (by decide)))
    (t := { haltProgram 0x7F with pc := 0x0001 }) rfl)
    (t := { haltProgram 0x7F with a := 0x01, pc := 0x0003 }) rfl)
    (t := { haltProgram 0x7F with
      a := 0x01, pc := 0x0005, mem := memSet (haltProgram 0x7F).mem 0xFFFF 0x01 }) rfl) rfl)

theorem reachable_atHaltAfterEi : Reachable atHaltAfterEi :=
  .move 0x01 (.step (.step (.step (.step (.init (initial_haltProgram 0xFB (by decide)))
    (t := { haltProgram 0xFB with pc := 0x0001 }) rfl)
    (t := { haltProgram 0xFB with a := 0x01, pc := 0x0003 }) rfl)
    (t := { haltProgram 0xFB with
      a := 0x01, pc := 0x0005, mem := memSet (haltProgram 0xFB).mem 0xFFFF 0x01 }) rfl) rfl)

/-- A run reaches a step that sets `halt_bug`, with no `EI` before it and with one. -/
theorem witness_NoDispatchWhileHaltBug :
    (Reachable atHalt ∧ atHalt.haltBug = false ∧ atHalt.eiPending = false ∧
      ∃ t, step atHalt = .next t ∧ t.haltBug = true) ∧
    Reachable atHaltAfterEi ∧ atHaltAfterEi.haltBug = false ∧ atHaltAfterEi.eiPending = true ∧
      ∃ t, step atHaltAfterEi = .next t ∧ t.haltBug = true :=
  ⟨⟨reachable_atHalt, rfl, rfl, _, rfl, rfl⟩, reachable_atHaltAfterEi, rfl, rfl, _, rfl, rfl⟩

/-- Running with several sources, and halted with the last one. -/
theorem witness_DispatchEffect :
    let s := withRequests 0x1F 0x1F [.ime true]
    let t := withRequests 0x10 0x10 [.ime true, .mode .halted]
    (s.mode ≠ .stopped ∧ s.ime = true ∧ pending s ≠ 0) ∧
      t.mode ≠ .stopped ∧ t.ime = true ∧ pending t ≠ 0 := by
  decide

theorem witness_StoppedForEver : (start [.mode .stopped]).mode = .stopped := rfl

/-- Nothing requested; and nothing enabled, bits 7 to 5 of `IE` notwithstanding; and the three stuck
states. -/
theorem witness_HaltedWaits :
    let s := withRequests 0x1F 0xE0 [.mode .halted]
    let t := withRequests 0xE0 0x1F [.mode .halted]
    ((s.mode = .halted ∧ pending s = 0) ∧ t.mode = .halted ∧ storedByte t 0xFFFF &&& 0x1F = 0) ∧
      Stuck s ∧ Stuck t ∧ Stuck (onBoard [.mode .stopped]) ∧
      Stuck (onBoard [.mode .halted, .mem 0xFF0F 0x1F]) ∧
      ¬ Stuck (onBoard [.mode .halted, .mem 0xFFFF 0x01]) := by
  decide

/-- A platform of each kind. -/
theorem witness_SourcesAndEnvironment :
    (onBoard []).params.platform.raises = true ∧ (onBoard []).params.platform.changes = true ∧
      State.reset.params.platform.raises = false ∧ State.reset.params.platform.changes = false ∧
      State.reset.params.platform = .flatRAM := by
  decide

/-- An instruction that leaves `IME` alone. -/
theorem witness_EiDelay :
    let s := withRequests 0x01 0x01 [.ei true, .mem 0x0000 0x3C]
    (s.mode = .running ∧ s.ime = false ∧ s.eiPending = true ∧ s.haltBug = false) ∧
      decode (readAll (codeAt s.pc) s).1 = .ok (.incR8 .a, [0x00, 0x00]) ∧ ∃ t, step s = .next t :=
  ⟨by decide, rfl, _, rfl⟩

/-- `DI`. -/
theorem witness_EiDelay_di :
    let s := withRequests 0x01 0x01 [.ei true, .mem 0x0000 0xF3]
    (s.mode = .running ∧ s.ime = false ∧ s.eiPending = true ∧ s.haltBug = false) ∧
      decode (readAll (codeAt s.pc) s).1 = .ok (.di, [0x00, 0x00]) ∧ ∃ t, step s = .next t :=
  ⟨by decide, rfl, _, rfl⟩

/-- At a `RETI`, after which `IME` is 1. -/
theorem witness_OnlyEiAndRetiEnable :
    let s := start [.mem 0x0000 0xD9]
    (s.ime = false ∧ s.eiPending = false) ∧ ∃ t, step s = .next t ∧ t.ime = true :=
  ⟨by decide, _, rfl, rfl⟩

/-- At an `EI`, after which `ei_pending` is 1. -/
theorem witness_OnlyEiAndRetiEnable_ei :
    let s := start [.mem 0x0000 0xFB]
    (s.ime = false ∧ s.eiPending = false) ∧ ∃ t, step s = .next t ∧ t.eiPending = true :=
  ⟨by decide, _, rfl, rfl⟩

/-- The last cell written and cleared again, as the same data. -/
theorem witness_CanonicalMemory :
    Memory.wf (memSet [] 0xFFFF 0x12) ∧ Memory.wf (memSet (memSet [] 0xFFFF 0x12) 0xFFFF 0x00) ∧
      (∀ x, memGet (memSet (memSet [] 0xFFFF 0x12) 0xFFFF 0x00) x = memGet [] x) :=
  ⟨by decide, by decide, fun _ => rfl⟩

theorem witness_AddHLResult :
    ((∃ p, Instr.addHLR16 .hl = .addHLR16 p ∧ (0xFFFF : Word) = getR16 (start [.hl 0xFFFF]) p) ∨
        (Instr.addHLR16 .hl = .addHLSP ∧ (0xFFFF : Word) = (start [.hl 0xFFFF]).sp)) ∧
      ((∃ p, Instr.addHLSP = .addHLR16 p ∧ (0x0001 : Word) = getR16 (start [.sp 0x0001]) p) ∨
        (Instr.addHLSP = .addHLSP ∧ (0x0001 : Word) = (start [.sp 0x0001]).sp)) :=
  ⟨.inl ⟨.hl, rfl, rfl⟩, .inr ⟨rfl, rfl⟩⟩

theorem witness_BitResult :
    let s := start [.a 0x80]
    ((∃ r, Instr.bitR8 7 .a = .bitR8 7 r ∧ (0x80 : Byte) = getR8 s r ∧
          ([] : List DeviceEvent) = []) ∨
        (Instr.bitR8 7 .a = .bitAtHL 7 ∧ (0x80 : Byte) = peek s (getHL s) ∧
          [] = [DeviceEvent.read (getHL s)])) ∧
      ((∃ r, Instr.bitAtHL 0 = .bitR8 0 r ∧ (0x00 : Byte) = getR8 s r ∧
          [DeviceEvent.read 0x0000] = []) ∨
        (Instr.bitAtHL 0 = .bitAtHL 0 ∧ (0x00 : Byte) = peek s (getHL s) ∧
          [DeviceEvent.read 0x0000] = [.read (getHL s)])) :=
  ⟨.inl ⟨.a, rfl, rfl, rfl⟩, .inr ⟨rfl, rfl, rfl⟩⟩

theorem witness_RotateShiftResult :
    (Instr.rla, Rot.rl) ∈ [(Instr.rla, Rot.rl), (.rlca, .rlc), (.rra, .rr), (.rrca, .rrc)] ∧
      (Instr.rrca, Rot.rrc) ∈ [(Instr.rla, Rot.rl), (.rlca, .rlc), (.rra, .rr), (.rrca, .rrc)] := by
  decide

theorem witness_SteppingLoadResult :
    (Instr.ldAtHLDecA, 65535) ∈ [(Instr.ldAtHLIncA, 1), (.ldAtHLDecA, 65535)] ∧
      (Instr.ldAAtHLInc, 1) ∈ [(Instr.ldAAtHLInc, 1), (.ldAAtHLDec, 65535)] := by
  decide

/-- The conditional jumps, calls and returns: a condition that holds and one that does not. -/
theorem witness_JumpResult_CallResult_ReturnResult :
    condHolds (start [.f 0x80]) .z = true ∧ condHolds (start [.f 0x80]) .nz = false ∧
      condHolds (start [.f 0x10]) .c = true ∧ condHolds (start [.f 0x10]) .nc = false := by
  decide

/-- The ends of the ranges of `DAA`: 9 and 10 in the low digit, 0x99 and 0x9A in the byte. -/
theorem witness_DaaResult :
    (daa8 0x09 (flagsOfByte 0x00)).1 = 0x09 ∧ (daa8 0x0A (flagsOfByte 0x00)).1 = 0x10 ∧
      daa8 0x99 (flagsOfByte 0x00) = (0x99, flagsOfByte 0x00) ∧
      daa8 0x9A (flagsOfByte 0x00) = (0x00, flagsOfByte 0x90) := by
  decide

theorem witness_DaaGivesDecimal :
    99 < 100 ∧ 0 < 100 ∧ (start [.a 0x99, .f 0x10]).a = BitVec.ofNat 8 (bcd 99) ∧
      (start [.a 0x00]).a = BitVec.ofNat 8 (bcd 0) := by
  decide

/-- `IME = 1`; nothing pending; and the bug condition, with an `EI` waiting or not, under each
policy. -/
theorem witness_HaltResult :
    let s := withRequests 0x01 0x01
    (s [.ime true]).ime = true ∧ pending (withRequests 0x01 0x02 []) = 0 ∧
      ((s []).ime = false ∧ pending (s []) ≠ 0 ∧ (s []).params.haltBugPolicy = .emulate) ∧
      (s [.ei true]).ime = false ∧ pending (s [.ei true]) ≠ 0 ∧
      let u := under .fault [.mem 0xFFFF 0x10, .mem 0xFF0F 0x10]
      u.ime = false ∧ pending u ≠ 0 ∧ u.params.haltBugPolicy = .fault ∧ u.haltBug = false ∧
        ∃ t, step u = .next t :=
  ⟨by decide, by decide, by decide, by decide, by decide, by decide, by decide, rfl, rfl, _, rfl⟩

theorem witness_IllegalOpcodeStops :
    ((0xD3 : Byte), Instr.illegalD3) ∈ illegalRows ∧ ((0xFD : Byte), Instr.illegalFD) ∈ illegalRows := by
  decide

/-- An instruction that completes, `CCF` and `POP AF`. -/
theorem witness_FlagTable :
    (∃ t, exec (.addAN8 0xFF) (start [.a 0x01]) = .next t ∧ t.f.c = true) ∧
      (∃ t, exec .ccf (start [.f 0x10]) = .next t ∧ t.f.c = false) ∧
      ∃ t, exec .popAF (start [.sp 0xC000, .mem 0xC000 0x50]) = .next t ∧
        t.f = flagsOfByte 0x50 :=
  ⟨⟨_, rfl, by decide⟩, ⟨_, rfl, by decide⟩, ⟨_, rfl, by decide⟩⟩

/-- An instruction that is no control transfer, and a `HALT` in the bug condition after an `EI`. -/
theorem witness_PcAdvances :
    ((∃ t, exec (.ldR8N8 .a 0x12) (start [.pc 0x0102]) = .next t ∧ t.pc = 0x0102) ∧
        isTransfer (.ldR8N8 .a 0x12) = false) ∧
      (∃ t, exec .halt (withRequests 0x01 0x01 [.pc 0x0102, .ei true]) = .next t ∧
        t.pc = 0x0102) ∧ isTransfer .halt = false :=
  ⟨⟨⟨_, rfl, rfl⟩, rfl⟩, ⟨_, rfl, rfl⟩, rfl⟩

theorem witness_RotationsRestore :
    Instr.rrR8 .a ∈ [Instr.rlR8 .a, .rrR8 .a] ∧ Instr.rlcR8 .b ∈ [Instr.rlcR8 .b, .rrcR8 .b] := by
  decide

theorem witness_AccessesWithinCycles :
    (cyclesIn (.retCc .z) (start [.f 0x80]) = some 5 ∧
        cyclesIn (.retCc .z) (start [.f 0x00]) = some 2 ∧
        cyclesIn (.callN16 0x0200) State.reset = some 6) ∧
      (∃ t, exec (.retCc .z) (start [.f 0x80]) = .next t) ∧
      accessesOf (.retCc .z) (start [.f 0x80, .sp 0xFFFF]) = [.read 0xFFFF, .read 0x0000] ∧
      accessesOf (.callN16 0x0200) (start [.pc 0x0103, .sp 0x0001]) =
        [.write 0x0000 0x01, .write 0xFFFF 0x03] ∧
      accessesOf .incAtHL (start [.hl 0xC000, .mem 0xC000 0x0F]) =
        [.read 0xC000, .write 0xC000 0x10] :=
  ⟨by decide, ⟨_, rfl⟩, by decide, by decide, by decide⟩

theorem witness_EquivalentForms :
    (Instr.rlca, Instr.rlcR8 .a) ∈
      [(Instr.rlca, Instr.rlcR8 .a), (.rla, .rlR8 .a), (.rrca, .rrcR8 .a), (.rra, .rrR8 .a)] := by
  decide

/-- The first cell and the last one, which the addresses wrap around to. -/
theorem witness_wrapping_addresses :
    (read16 (write16 State.reset 0xFFFF 0x1234) 0xFFFF).1 = 0x1234 ∧
      peek (write16 State.reset 0xFFFF 0x1234) 0x0000 = 0x12 ∧
      (push16 (start [.sp 0x0001]) 0x1234).sp = 0xFFFF ∧
      peek (push16 (start [.sp 0x0001]) 0x1234) 0xFFFF = 0x34 := by
  decide

/-- A word, a stack and a cell in plain RAM, at the ends of the address space. -/
theorem witness_plain_RAM :
    let s := start [.sp 0x0001]
    kindAt s 0xFFFF = .ram 0x00 ∧ kindAt s (0xFFFF + 1) = .ram 0x00 ∧
      kindAt s (s.sp - 1) = .ram 0x00 ∧ kindAt s (s.sp - 2) = .ram 0x00 ∧
      Memory.wf (start [.mem 0x0100 0x12]).mem ∧ s.params.platform = .flatRAM := by
  decide

/-- A cell of each kind, at the ends of the regions. -/
theorem witness_MemoryAccess :
    let s := onBoard []
    kindAt s 0x7FFF = .rom ∧ kindAt s 0x8000 = .ram 0x00 ∧ kindAt s 0xFF00 = .device ∧
      kindAt s 0xFF7F = .device ∧ kindAt s 0xFF80 = .ram 0x00 ∧ kindAt s 0xFF0F = .ram 0xE0 ∧
      kindAt s 0xFFFF = .ram 0x00 ∧ s.params.platform ≠ .flatRAM := by
  decide

end Sys2Proof.Tests
end

section
/-! PROOF. `F` and who writes it (spec 10_state.md): its byte (rule R33), and the table of the flags
(rule R49) over every instruction, from one lemma per flag computation and one per operand form. -/

namespace Sys2Proof.Proofs.FlagRegister

open Sys2Proof.Machine Sys2Proof.Claims

/-! ### `F` as a byte -/

theorem toNat_flagsByte (f : Flags) :
    (flagsByte f).toNat = 128 * f.z.toNat + 64 * f.n.toNat + 32 * f.h.toNat + 16 * f.c.toNat := by
  obtain ⟨z, n, h, c⟩ := f
  revert z n h c
  decide

@[simp] theorem flagsOfByte_flagsByte (f : Flags) : flagsOfByte (flagsByte f) = f := by
  obtain ⟨z, n, h, c⟩ := f
  revert z n h c
  decide

/-- Bits 7 to 4 are kept and bits 3 to 0 dropped, as numbers. -/
theorem toNat_flagsByte_flagsOfByte (v : Byte) :
    (flagsByte (flagsOfByte v)).toNat = v.toNat - v.toNat % 16 := by
  have hv := v.isLt
  rw [toNat_flagsByte]
  simp only [flagsOfByte, BitVec.getLsbD, Nat.toNat_testBit]
  omega

/-! ### The stack instructions of `AF` -/

/-- `PUSH AF` stores the byte of `F` at the lower address, where that is RAM (46_stack.md rule R352). -/
theorem holds_push16_getAF (s : State) :
    Holds s (push16 s (getAF s)) (s.sp - 2) (flagsByte s.f) := by
  intro hram
  rw [storedByte_push16, sub_one_sub_one, if_pos ⟨hram, rfl⟩, getAF, loByte_wordOf]

/-- `POP AF` takes the flags from the byte at the lower address (46_stack.md rule R350). -/
theorem setAF_pop16_f (s : State) :
    (setAF (pop16 s).2 (pop16 s).1).f = flagsOfByte (peek s s.sp) := by
  rw [setAF_f, pop16_fst, loByte_wordOf]

/-- Settles O24: the layout is a fact about four bits, and the two instructions are the stack's own
operations on `AF`. -/
theorem flagByteLayout : Obligations.FlagByteLayout :=
  ⟨fun f => ⟨toNat_flagsByte f, flagsOfByte_flagsByte f⟩, toNat_flagsByte_flagsOfByte,
    fun s => ⟨⟨_, rfl, holds_push16_getAF s⟩, ⟨_, rfl, setAF_pop16_f s⟩⟩⟩

/-! ### The flags after each operand form -/

theorem modifyAtHL_f (s : State) (g : Byte → Byte × Flags) :
    (modifyAtHL s g).f = (g (peek s (getHL s))).2 := rfl

theorem whenCond_f (s : State) (cc : Cond) (taken : State → State) (h : (taken s).f = s.f) :
    (whenCond s cc taken).f = s.f := by
  unfold whenCond
  split
  · exact h
  · rfl

theorem haltUnder_f (policy : HaltBugPolicy) (s t : State) (h : haltUnder policy s = .next t) :
    t.f = s.f := by
  obtain ⟨-, hnext⟩ | ⟨-, -, hfault⟩ | ⟨-, -, hnext⟩ := haltUnder_cases policy s
  · cases hnext.symm.trans h; rfl
  · cases hfault.symm.trans h
  · cases hnext.symm.trans h; rfl

/-! ### A row of the table between two values of `F` -/

/-- The flags `g` after and `f` before are as a row of the table says. -/
def RowHolds (row : Effect × Effect × Effect × Effect) (f g : Flags) : Prop :=
  row.1.Holds f.z g.z ∧ row.2.1.Holds f.n g.n ∧ row.2.2.1.Holds f.h g.h ∧ row.2.2.2.Holds f.c g.c

theorem kept_row {f g : Flags} (h : g = f) : RowHolds (.kept, .kept, .kept, .kept) f g := by
  subst h
  exact ⟨rfl, rfl, rfl, rfl⟩

theorem add8_row (f : Flags) (a x : Byte) (cin : Bool) :
    RowHolds (.computed, .zero, .computed, .computed) f (add8 a x cin).2 := by
  obtain ⟨-, -, hn, -, -⟩ := add8_spec a x cin
  exact ⟨trivial, hn, trivial, trivial⟩

theorem sub8_row (f : Flags) (a x : Byte) (cin : Bool) :
    RowHolds (.computed, .one, .computed, .computed) f (sub8 a x cin).2 := by
  obtain ⟨-, -, hn, -, -⟩ := sub8_spec a x cin
  exact ⟨trivial, hn, trivial, trivial⟩

theorem and8_row (f : Flags) (a x : Byte) :
    RowHolds (.computed, .zero, .one, .zero) f (and8 a x).2 := ⟨trivial, rfl, rfl, rfl⟩

theorem or8_row (f : Flags) (a x : Byte) :
    RowHolds (.computed, .zero, .zero, .zero) f (or8 a x).2 := ⟨trivial, rfl, rfl, rfl⟩

theorem xor8_row (f : Flags) (a x : Byte) :
    RowHolds (.computed, .zero, .zero, .zero) f (xor8 a x).2 := ⟨trivial, rfl, rfl, rfl⟩

theorem inc8_row (v : Byte) (f : Flags) :
    RowHolds (.computed, .zero, .computed, .kept) f (inc8 v f).2 := by
  obtain ⟨-, -, hn, -, hc⟩ := inc8_spec v f
  exact ⟨trivial, hn, trivial, hc⟩

theorem dec8_row (v : Byte) (f : Flags) :
    RowHolds (.computed, .one, .computed, .kept) f (dec8 v f).2 := by
  obtain ⟨-, -, hn, -, hc⟩ := dec8_spec v f
  exact ⟨trivial, hn, trivial, hc⟩

theorem add16_row (x v : Word) (f : Flags) :
    RowHolds (.kept, .zero, .computed, .computed) f (add16 x v f).2 := by
  obtain ⟨-, hz, hn, -, -⟩ := add16_spec x v f
  exact ⟨hz, hn, trivial, trivial⟩

theorem addSP_row (f : Flags) (sp : Word) (e : Byte) :
    RowHolds (.zero, .zero, .computed, .computed) f (addSP sp e).2 := by
  obtain ⟨-, hz, hn, -, -⟩ := addSP_spec sp e
  exact ⟨hz, hn, trivial, trivial⟩

theorem rotFlags_row (f : Flags) (p : Byte × Bool) :
    RowHolds (.computed, .zero, .zero, .computed) f (rotFlags p).2 := ⟨trivial, rfl, rfl, trivial⟩

theorem rotFlagsA_row (f : Flags) (p : Byte × Bool) :
    RowHolds (.zero, .zero, .zero, .computed) f (rotFlagsA p).2 := ⟨rfl, rfl, rfl, trivial⟩

theorem swap8_row (f : Flags) (v : Byte) :
    RowHolds (.computed, .zero, .zero, .zero) f (swap8 v).2 := by
  obtain ⟨-, -, hn, hh, hc⟩ := swap8_spec v
  exact ⟨trivial, hn, hh, hc⟩

theorem bitFlags_row (u : BitVec 3) (v : Byte) (f : Flags) :
    RowHolds (.computed, .zero, .one, .kept) f (bitFlags u v f) := by
  obtain ⟨-, hn, hh, hc⟩ := bitFlags_spec u v f
  exact ⟨trivial, hn, hh, hc⟩

theorem daa8_row (a : Byte) (f : Flags) :
    RowHolds (.computed, .kept, .zero, .computed) f (daa8 a f).2 := by
  obtain ⟨-, -, hn, hh, -⟩ := daa8_spec a f.z f.n f.h f.c
  exact ⟨trivial, hn, hh, trivial⟩

/-! ### The table -/

/-- The table of 10_state.md rule R49, by its rows: what an instruction leaves in `F` is what its flag
computation gives. -/
theorem flagRow_holds (i : Instr) (s t : State) (h : exec i s = .next t) :
    RowHolds (flagRow i) s.f t.f := by
  cases i with
  | adcAR8 | adcAAtHL | adcAN8 | addAR8 | addAAtHL | addAN8 => cases h; exact add8_row ..
  | cpAR8 | cpAAtHL | cpAN8 | sbcAR8 | sbcAAtHL | sbcAN8 | subAR8 | subAAtHL | subAN8 =>
    cases h; exact sub8_row ..
  | andAR8 | andAAtHL | andAN8 => cases h; exact and8_row ..
  | orAR8 | orAAtHL | orAN8 => cases h; exact or8_row ..
  | xorAR8 | xorAAtHL | xorAN8 => cases h; exact xor8_row ..
  | incR8 => cases h; rw [modifyR8_f]; exact inc8_row ..
  | incAtHL => cases h; rw [modifyAtHL_f]; exact inc8_row ..
  | decR8 => cases h; rw [modifyR8_f]; exact dec8_row ..
  | decAtHL => cases h; rw [modifyAtHL_f]; exact dec8_row ..
  | addHLR16 | addHLSP => cases h; exact add16_row ..
  | addSPE8 | ldHLSPE8 => cases h; exact addSP_row ..
  | bitR8 | bitAtHL => cases h; exact bitFlags_row ..
  | swapR8 => cases h; rw [modifyR8_f]; exact swap8_row ..
  | swapAtHL => cases h; rw [modifyAtHL_f]; exact swap8_row ..
  | rlR8 | rlcR8 | rrR8 | rrcR8 | slaR8 | sraR8 | srlR8 =>
    cases h; rw [modifyR8_f]; exact rotFlags_row ..
  | rlAtHL | rlcAtHL | rrAtHL | rrcAtHL | slaAtHL | sraAtHL | srlAtHL =>
    cases h; rw [modifyAtHL_f]; exact rotFlags_row ..
  | rla | rlca | rra | rrca => cases h; exact rotFlagsA_row ..
  | daa => cases h; exact daa8_row ..
  | ccf => cases h; exact ⟨rfl, rfl, rfl, trivial⟩
  | cpl => cases h; exact ⟨rfl, rfl, rfl, rfl⟩
  | scf => cases h; exact ⟨rfl, rfl, rfl, rfl⟩
  | popAF => exact ⟨trivial, trivial, trivial, trivial⟩
  | resR8 | setR8 | ldR8R8 | ldR8N8 | ldR8AtHL => cases h; exact kept_row (setR8_f ..)
  | incR16 | decR16 | ldR16N16 | popR16 => cases h; exact kept_row (setR16_f ..)
  | resAtHL | setAtHL => cases h; exact kept_row (modifyAtHL_f ..)
  | incSP | decSP | ldAtHLR8 | ldAtHLN8 | ldAtR16A | ldAtN16A | ldHighN8A
  | ldHighCA | ldAAtR16 | ldAAtN16 | ldAHighN8 | ldAHighC | ldAtHLIncA | ldAtHLDecA | ldAAtHLInc
  | ldAAtHLDec | ldSPN16 | ldAtN16SP | ldSPHL | pushAF | pushR16 | callN16 | rstVec | jpN16 | jpHL
  | jrE8 | ret | reti | di | ei | nop | stop => cases h; exact kept_row rfl
  | callCcN16 | jpCcN16 | jrCcE8 | retCc => cases h; exact kept_row (whenCond_f _ _ _ rfl)
  | halt => exact kept_row (haltUnder_f _ _ _ h)
  | illegalD3 | illegalDB | illegalDD | illegalE3 | illegalE4 | illegalEB | illegalEC | illegalED
  | illegalF4 | illegalFC | illegalFD => cases h

/-- `CCF` complements `C` (47_misc.md rule R360). -/
theorem ccf_complements (s t : State) (h : exec .ccf s = .next t) : t.f.c ≠ s.f.c := by
  cases h
  exact Bool.not_ne_self s.f.c

/-- `POP AF` takes the four flags from bits 7 to 4 of the byte at `SP` (46_stack.md rule R350). -/
theorem popAF_takes_bits (s t : State) (h : exec .popAF s = .next t) :
    [t.f.z, t.f.n, t.f.h, t.f.c] = [7, 6, 5, 4].map fun k => (peek s s.sp).getLsbD k := by
  have hf : t.f = flagsOfByte (peek s s.sp) := by
    cases h
    exact setAF_pop16_f s
  rw [hf]
  rfl

/-- Settles O57: row by row, with `CCF` and `POP AF` beside them. -/
theorem flagTable : Obligations.FlagTable := by
  intro i s t h
  refine ⟨flagRow_holds i s t h, ?_, ?_⟩
  · rintro rfl
    exact ccf_complements s t h
  · rintro rfl
    exact popAF_takes_bits s t h

end Sys2Proof.Proofs.FlagRegister
end

section
/-! PROOF. The 16-bit accesses and the stack (spec 20_memory.md rules R76 to R78): what each leaves
unchanged on every cell, and that in plain RAM the word written comes back. -/

namespace Sys2Proof.Proofs.WordAccesses

open Sys2Proof.Machine Sys2Proof.Claims

/-! ### Reads of plain RAM -/

/-- A cell that is not a device's answers the stored byte with the bits that read as 1, and no device
sees the read (20_memory.md rule R71). -/
theorem memRead_of_not_device (s : State) (x : Word) (h : (kindAt s x).isDevice = false) :
    memRead s x = (storedByte s x ||| (kindAt s x).ones, s) := by
  have unseen : s.params.platform.sees (.read x) = false := h
  rw [memRead, peek_of_not_device s x h, Platform.note, if_neg (by simp [unseen])]

theorem memRead_of_plainRAM (s : State) (x : Word) (h : kindAt s x = .ram 0x00) :
    memRead s x = (storedByte s x, s) := by
  rw [memRead_of_not_device s x (by rw [h]; rfl), h]
  simp [CellKind.ones]

theorem read16_of_plainRAM (s : State) (x : Word) (hlow : kindAt s x = .ram 0x00)
    (hhigh : kindAt s (x + 1) = .ram 0x00) :
    read16 s x = (wordOf (storedByte s (x + 1)) (storedByte s x), s) := by
  simp only [read16, memRead_of_plainRAM s x hlow, memRead_of_plainRAM s (x + 1) hhigh]

/-- `Pop16` is `Read16` at the old `SP`, with `SP` moved past the two cells. -/
theorem pop16_eq_read16 (s : State) :
    pop16 s = ((read16 s s.sp).1, { (read16 s s.sp).2 with sp := s.sp + 1 + 1 }) := rfl

/-! ### `Write16` and `Read16` -/

theorem holds_write16_low (s : State) (x w : Word) : Holds s (write16 s x w) x (loByte w) := by
  intro hram
  rw [storedByte_write16, if_neg fun h => succ_ne x h.2.symm, if_pos ⟨hram, rfl⟩]

theorem holds_write16_high (s : State) (x w : Word) :
    Holds s (write16 s x w) (x + 1) (hiByte w) := by
  intro hram
  rw [storedByte_write16, if_pos ⟨hram, rfl⟩]

/-- `Write16` is two writes, the low byte first, and changes nothing else. -/
theorem onlyR8_write16 (s : State) (x w : Word) :
    OnlyR8 [] (wordWrites x w) s (write16 s x w) :=
  (onlyR8_memWrite s x (loByte w)).trans (onlyR8_memWrite _ (x + 1) (hiByte w))

/-- `Read16` is two reads, the low byte first, and changes nothing. -/
theorem onlyR8_read16 (s : State) (x : Word) :
    OnlyR8 [] [.read x, .read (x + 1)] s (read16 s x).2 :=
  (onlyR8_memRead s x).trans (onlyR8_memRead _ (x + 1))

/-- From plain RAM `Read16` answers the word that `Write16` stored. -/
theorem read16_write16 (s : State) (x w : Word) (hlow : kindAt s x = .ram 0x00)
    (hhigh : kindAt s (x + 1) = .ram 0x00) : (read16 (write16 s x w) x).1 = w := by
  have kind (y : Word) : kindAt (write16 s x w) y = kindAt s y := kindAt_of_params rfl y
  rw [read16_of_plainRAM _ x ((kind x).trans hlow) ((kind (x + 1)).trans hhigh),
    holds_write16_low s x w (by rw [hlow]; rfl), holds_write16_high s x w (by rw [hhigh]; rfl)]
  exact wordOf_hiByte_loByte w

/-- Settles O21: each of the two operations is two accesses in a row, and the two addresses differ
even where the second one wraps. -/
theorem write16ThenRead16 : Obligations.Write16ThenRead16 := fun s x w =>
  ⟨write16_f s x w,
    ⟨loByte w, hiByte w, toNat_loByte w, toNat_hiByte w, holds_write16_low s x w,
      holds_write16_high s x w, onlyR8_write16 s x w⟩,
    onlyR8_read16 s x, read16_write16 s x w⟩

/-! ### `Push16` and `Pop16` -/

theorem holds_push16_high (s : State) (w : Word) :
    Holds s (push16 s w) (s.sp - 1) (hiByte w) := by
  intro hram
  rw [storedByte_push16, if_neg fun h => sub_one_ne s.sp h.2.symm, if_pos ⟨hram, rfl⟩]

theorem holds_push16_low (s : State) (w : Word) :
    Holds s (push16 s w) (s.sp - 2) (loByte w) := by
  intro hram
  rw [storedByte_push16, sub_one_sub_one, if_pos ⟨hram, rfl⟩]

theorem pushes_push16 (s : State) (w : Word) : Pushes (hiByte w) (loByte w) s (push16 s w) :=
  ⟨sub_one_sub_one s.sp, holds_push16_high s w, holds_push16_low s w, onlyStack_push16 s w⟩

/-- The word popped is the one at `SP`. -/
theorem toNat_pop16 (s : State) : (pop16 s).1.toNat = wordAtSP s := by
  rw [pop16_fst, toNat_wordOf, wordAtSP]

theorem add_one_add_one (x : Word) : x + 1 + 1 = x + 2 := by bv_omega

/-- On a stack in plain RAM `Pop16` takes back what `Push16` put there, and the cells keep it. -/
theorem pop16_push16 (s : State) (w : Word) (hhigh : kindAt s (s.sp - 1) = .ram 0x00)
    (hlow : kindAt s (s.sp - 2) = .ram 0x00) :
    pop16 (push16 s w) = (w, { push16 s w with sp := s.sp }) := by
  have kind (y : Word) : kindAt (push16 s w) y = kindAt s y := kindAt_of_params rfl y
  have sp : (push16 s w).sp = s.sp - 2 := sub_one_sub_one s.sp
  have above : s.sp - 2 + 1 = s.sp - 1 := by bv_omega
  have back : s.sp - 1 + 1 = s.sp := by bv_omega
  have word : read16 (push16 s w) (s.sp - 2) = (w, push16 s w) := by
    rw [read16_of_plainRAM _ _ ((kind _).trans hlow) (by rw [kind, above, hhigh]), above,
      holds_push16_high s w (by rw [hhigh]; rfl), holds_push16_low s w (by rw [hlow]; rfl),
      wordOf_hiByte_loByte]
  rw [pop16_eq_read16, sp, word, above, back]

/-- Settles O22: the two bytes are stored at different addresses below `SP`, and a pop is a `Read16` of
them. -/
theorem push16ThenPop16 : Obligations.Push16ThenPop16 := fun s w =>
  ⟨⟨hiByte w, loByte w, toNat_hiByte w, toNat_loByte w, pushes_push16 s w⟩,
    push16_pc s w, toNat_pop16 s, (pop16_sp s).trans (add_one_add_one s.sp), pop16_pc s,
    onlyStack_pop16 s, fun hhigh hlow => Prod.mk.inj (pop16_push16 s w hhigh hlow)⟩

end Sys2Proof.Proofs.WordAccesses
end

section
/-! PROOF. The codes of the encoding (spec 30_encoding.md): the conditions (rule R110), and the eleven
bytes that encode nothing (rule R116): executing one stops the machine, and every line the assembler
accepts means a legal instruction. -/

namespace Sys2Proof.Proofs.OpcodeTable

open Sys2Proof.Machine Sys2Proof.Claims

/-! ### The conditions -/

theorem map_condOfCode : [0, 1, 2, 3].map condOfCode = [Cond.nz, .z, .nc, .c] := rfl

/-- Settles O26: `Z` and `C` are the flags of their names, `NZ` and `NC` their complements. -/
theorem conditions : Obligations.Conditions :=
  ⟨map_condOfCode, fun s =>
    ⟨.of_eq (Bool.not_eq_true' s.f.z), .rfl, .of_eq (Bool.not_eq_true' s.f.c), .rfl⟩⟩

/-! ### An instruction that is not legal -/

theorem not_legal_of_mem_illegalRows :
    ∀ row ∈ illegalRows, encode row.2 = [row.1] ∧ row.2.isLegal = false := by
  decide

/-- The fault holds the byte that the instruction is, and the state it was executed in. -/
theorem exec_of_not_legal (s : State) (i : Instr) (h : i.isLegal = false) :
    ∃ op, encode i = [op] ∧ exec i s = .fault (.illegalOpcode op s) := by
  cases i with
  | illegalD3 | illegalDB | illegalDD | illegalE3 | illegalE4 | illegalEB | illegalEC | illegalED
  | illegalF4 | illegalFC | illegalFD => exact ⟨_, rfl, rfl⟩
  | _ => cases h

theorem disassemble_of_not_legal (here : Word) (i : Instr) (h : i.isLegal = false) :
    disassemble here i = none := by
  cases i with
  | illegalD3 | illegalDB | illegalDD | illegalE3 | illegalE4 | illegalEB | illegalEC | illegalED
  | illegalF4 | illegalFC | illegalFD => rfl
  | _ => cases h

/-! ### What the assembler can mean -/

/-- An answer of the assembler, if it is an instruction, is a legal one. -/
def OnlyLegal (answer : Option Instr) : Prop := ∀ i ∈ answer, i.isLegal = true

@[simp] theorem onlyLegal_none : OnlyLegal none := fun _ h => nomatch h

@[simp] theorem onlyLegal_some (i : Instr) : OnlyLegal (some i) ↔ i.isLegal = true := by
  simp [OnlyLegal]

@[simp] theorem onlyLegal_map {α : Type} (f : α → Instr) (o : Option α) :
    OnlyLegal (o.map f) ↔ ∀ x ∈ o, (f x).isLegal = true := by
  simp [OnlyLegal]

@[simp] theorem onlyLegal_bind {α : Type} (f : α → Option Instr) (o : Option α) :
    OnlyLegal (o.bind f) ↔ ∀ x ∈ o, OnlyLegal (f x) := by
  cases o <;> simp

section OperandForms

variable {reg : R8 → Instr} {atHL : Instr} {imm : Byte → Instr} {pair : R16 → Instr} {sp : Instr}

theorem onlyLegal_asmAlu (hreg : ∀ r, (reg r).isLegal = true) (hHL : atHL.isLegal = true)
    (himm : ∀ n, (imm n).isLegal = true) (x : AsmOperand) : OnlyLegal (asmAlu reg atHL imm x) := by
  unfold asmAlu
  split <;> simp [hreg, hHL, himm]

theorem onlyLegal_asmAluLine (hreg : ∀ r, (reg r).isLegal = true) (hHL : atHL.isLegal = true)
    (himm : ∀ n, (imm n).isLegal = true) (ops : List AsmOperand) :
    OnlyLegal (asmAluLine reg atHL imm ops) := by
  unfold asmAluLine
  split <;> simp [onlyLegal_asmAlu hreg hHL himm]

theorem onlyLegal_asmUnary (hreg : ∀ r, (reg r).isLegal = true) (hHL : atHL.isLegal = true)
    (ops : List AsmOperand) : OnlyLegal (asmUnary reg atHL ops) := by
  unfold asmUnary
  split <;> simp [hreg, hHL]

theorem onlyLegal_asmCount (hreg : ∀ r, (reg r).isLegal = true) (hHL : atHL.isLegal = true)
    (hpair : ∀ p, (pair p).isLegal = true) (hsp : sp.isLegal = true) (ops : List AsmOperand) :
    OnlyLegal (asmCount reg atHL pair sp ops) := by
  unfold asmCount
  split <;> simp [hpair, hsp, onlyLegal_asmUnary hreg hHL]

theorem onlyLegal_asmBit {reg : BitVec 3 → R8 → Instr} {atHL : BitVec 3 → Instr}
    (hreg : ∀ u r, (reg u r).isLegal = true) (hHL : ∀ u, (atHL u).isLegal = true)
    (ops : List AsmOperand) : OnlyLegal (asmBit reg atHL ops) := by
  unfold asmBit
  split <;> simp [hreg, hHL]

theorem onlyLegal_asmStack {af : Instr} (hpair : ∀ p, (pair p).isLegal = true)
    (haf : af.isLegal = true) (ops : List AsmOperand) : OnlyLegal (asmStack pair af ops) := by
  unfold asmStack
  split <;> simp [hpair, haf]

theorem onlyLegal_asmPlain {i : Instr} (h : i.isLegal = true) (ops : List AsmOperand) :
    OnlyLegal (asmPlain i ops) := by
  unfold asmPlain
  split <;> simp [h]

end OperandForms

theorem onlyLegal_asmAdd (ops : List AsmOperand) : OnlyLegal (asmAdd ops) := by
  unfold asmAdd
  split
  case h_4 => exact onlyLegal_asmAluLine (fun _ => rfl) rfl (fun _ => rfl) _
  all_goals simp [Instr.isLegal]

theorem onlyLegal_asmLd (ops : List AsmOperand) : OnlyLegal (asmLd ops) := by
  unfold asmLd
  split <;> simp [Instr.isLegal]

theorem onlyLegal_asmLdh (ops : List AsmOperand) : OnlyLegal (asmLdh ops) := by
  unfold asmLdh
  split <;> simp [Instr.isLegal]

theorem onlyLegal_asmJp (ops : List AsmOperand) : OnlyLegal (asmJp ops) := by
  unfold asmJp
  split <;> simp [Instr.isLegal]

theorem onlyLegal_asmJr (here : Word) (ops : List AsmOperand) : OnlyLegal (asmJr here ops) := by
  unfold asmJr
  split <;> simp [Instr.isLegal]

theorem onlyLegal_asmCall (ops : List AsmOperand) : OnlyLegal (asmCall ops) := by
  unfold asmCall
  split <;> simp [Instr.isLegal]

theorem onlyLegal_asmRet (ops : List AsmOperand) : OnlyLegal (asmRet ops) := by
  unfold asmRet
  split <;> simp [Instr.isLegal]

theorem onlyLegal_asmRst (ops : List AsmOperand) : OnlyLegal (asmRst ops) := by
  unfold asmRst
  split <;> simp [Instr.isLegal]

/-- Mnemonic by mnemonic, by the operand forms that each has. -/
theorem onlyLegal_assemble (here : Word) (line : AsmLine) : OnlyLegal (assemble here line) := by
  obtain ⟨mnem, ops⟩ := line
  cases mnem with
  | adc | and | cp | or | sbc | sub | xor =>
    exact onlyLegal_asmAluLine (fun _ => rfl) rfl (fun _ => rfl) ops
  | dec | inc => exact onlyLegal_asmCount (fun _ => rfl) rfl (fun _ => rfl) rfl ops
  | bit | res | set => exact onlyLegal_asmBit (fun _ _ => rfl) (fun _ => rfl) ops
  | rl | rlc | rr | rrc | sla | sra | srl | swap => exact onlyLegal_asmUnary (fun _ => rfl) rfl ops
  | pop | push => exact onlyLegal_asmStack (fun _ => rfl) rfl ops
  | ccf | cpl | daa | di | ei | halt | nop | reti | rla | rlca | rra | rrca | scf | stop =>
    exact onlyLegal_asmPlain rfl ops
  | add => exact onlyLegal_asmAdd ops
  | ld => exact onlyLegal_asmLd ops
  | ldh => exact onlyLegal_asmLdh ops
  | jp => exact onlyLegal_asmJp ops
  | jr => exact onlyLegal_asmJr here ops
  | call => exact onlyLegal_asmCall ops
  | ret => exact onlyLegal_asmRet ops
  | rst => exact onlyLegal_asmRst ops

theorem assemble_ne_of_not_legal (here : Word) (line : AsmLine) (i : Instr)
    (h : i.isLegal = false) : assemble here line ≠ some i := by
  intro hmeans
  have hlegal : i.isLegal = true := onlyLegal_assemble here line i hmeans
  cases h.symm.trans hlegal

/-- Settles O56: the eleven are not legal, and an instruction that is not legal faults, has no heading
and is meant by no line. -/
theorem illegalOpcodeStops : Obligations.IllegalOpcodeStops := by
  intro s op i hrow
  obtain ⟨hbytes, hlegal⟩ := not_legal_of_mem_illegalRows (op, i) hrow
  obtain ⟨byte, hbyte, hfault⟩ := exec_of_not_legal s i hlegal
  obtain rfl : byte = op := List.singleton_injective (hbyte.symm.trans hbytes)
  exact ⟨hfault, hbytes, fun here =>
    ⟨disassemble_of_not_legal here i hlegal, fun line => assemble_ne_of_not_legal here line i hlegal⟩⟩

end Sys2Proof.Proofs.OpcodeTable
end

section
/-! PROOF. `ADD`, `ADC`, `SUB` and `SBC` (spec 40_alu8.md): in every operand form the instruction reads
its right operand and then puts the result of `Add8` or `Sub8` (rules R169 and R170) into `A` and the
flags. -/

namespace Sys2Proof.Proofs.AccumulatorSums

open Sys2Proof.Machine Sys2Proof.Claims

/-! ### The right operand -/

/-- The state after the right operand is read: only `[HL]` is an access (20_memory.md rule R75). -/
def afterRhs (s : State) : Rhs → State
  | .atHL => (memRead s (getHL s)).2
  | .reg _ | .imm _ => s

/-- Reading the right operand makes its accesses and changes nothing. -/
theorem onlyR8_afterRhs (s : State) (x : Rhs) : OnlyR8 [] (rhsAccesses s x) s (afterRhs s x) := by
  cases x with
  | atHL => exact onlyR8_memRead s (getHL s)
  | reg r => exact OnlyR8.refl [] s
  | imm n => exact OnlyR8.refl [] s

/-- A result put into `A` after the right operand is read changes `A`, the flags and nothing else. -/
theorem onlyR8_setAFlags_afterRhs (s : State) (x : Rhs) (p : Byte × Flags) :
    OnlyR8 [.a] (rhsAccesses s x) s (setAFlags (afterRhs s x) p) := by
  have h := (onlyR8_afterRhs s x).of_nil.trans (onlyR8_setAFlags (afterRhs s x) p)
  rwa [List.append_nil] at h

/-! ### Each instruction in its three operand forms -/

theorem exec_addOf (s : State) (x : Rhs) : exec (addOf x) s =
    .next (setAFlags (afterRhs s x) (add8 s.a (rhsValue s x) false)) := by
  cases x <;> rfl

theorem exec_adcOf (s : State) (x : Rhs) : exec (adcOf x) s =
    .next (setAFlags (afterRhs s x) (add8 s.a (rhsValue s x) s.f.c)) := by
  cases x <;> rfl

theorem exec_subOf (s : State) (x : Rhs) : exec (subOf x) s =
    .next (setAFlags (afterRhs s x) (sub8 s.a (rhsValue s x) false)) := by
  cases x <;> rfl

theorem exec_sbcOf (s : State) (x : Rhs) : exec (sbcOf x) s =
    .next (setAFlags (afterRhs s x) (sub8 s.a (rhsValue s x) s.f.c)) := by
  cases x <;> rfl

/-! ### The sum and the difference -/

section
variable {i : Instr} {s : State} {x : Rhs} {cin : Bool}

/-- What an instruction does that puts an `Add8` of the right operand into `A` and the flags. -/
theorem completes_add8
    (h : exec i s = .next (setAFlags (afterRhs s x) (add8 s.a (rhsValue s x) cin))) :
    Completes i s fun t =>
      t.a.toNat = (s.a.toNat + (rhsValue s x).toNat + cin.toNat) % 256 ∧
        FlagsAre t.f (t.a = 0) False
          (15 < s.a.toNat % 16 + (rhsValue s x).toNat % 16 + cin.toNat)
          (255 < s.a.toNat + (rhsValue s x).toNat + cin.toNat) ∧
        OnlyR8 [.a] (rhsAccesses s x) s t := by
  obtain ⟨result, zero, subtract, half, carry⟩ := add8_spec s.a (rhsValue s x) cin
  exact ⟨_, h, result, ⟨zero, iff_false_intro (Bool.eq_false_iff.mp subtract), half, carry⟩,
    onlyR8_setAFlags_afterRhs s x _⟩

/-- What an instruction does that puts a `Sub8` of the right operand into `A` and the flags. -/
theorem completes_sub8
    (h : exec i s = .next (setAFlags (afterRhs s x) (sub8 s.a (rhsValue s x) cin))) :
    Completes i s fun t =>
      t.a.toNat = (s.a.toNat + 512 - (rhsValue s x).toNat - cin.toNat) % 256 ∧
        FlagsAre t.f (t.a = 0) True
          (s.a.toNat % 16 < (rhsValue s x).toNat % 16 + cin.toNat)
          (s.a.toNat < (rhsValue s x).toNat + cin.toNat) ∧
        OnlyR8 [.a] (rhsAccesses s x) s t := by
  obtain ⟨result, zero, subtract, half, borrow⟩ := sub8_spec s.a (rhsValue s x) cin
  exact ⟨_, h, result, ⟨zero, iff_true_intro subtract, half, borrow⟩,
    onlyR8_setAFlags_afterRhs s x _⟩

end

/-- Settles O28: `ADD` is `Add8` with no carry-in, `ADC` is `Add8` with the carry flag. -/
theorem addAdcResult : Obligations.AddAdcResult := by
  intro s x withCarry
  cases withCarry with
  | false => exact completes_add8 (exec_addOf s x)
  | true => exact completes_add8 (exec_adcOf s x)

/-- Settles O29: `SUB` is `Sub8` with no carry-in, `SBC` is `Sub8` with the carry flag. -/
theorem subSbcResult : Obligations.SubSbcResult := by
  intro s x withCarry
  cases withCarry with
  | false => exact completes_sub8 (exec_subOf s x)
  | true => exact completes_sub8 (exec_sbcOf s x)

end Sys2Proof.Proofs.AccumulatorSums
end

section
/-! PROOF. `ADD SP,e8` (spec 41_alu16.md rule R202) and `LD HL,SP+e8` (44_load.md rule R300): both put
the flags of `AddSP` (rule R207) into `F`, and the sum into `SP` or into `HL`. -/

namespace Sys2Proof.Proofs.StackPointerSums

open Sys2Proof.Machine Sys2Proof.Claims

theorem exec_addSPE8 (s : State) (e : Byte) : exec (.addSPE8 e) s =
    .next { s with sp := (addSP s.sp e).1, f := (addSP s.sp e).2 } := rfl

theorem exec_ldHLSPE8 (s : State) (e : Byte) :
    exec (.ldHLSPE8 e) s = .next (setHLFlags s (addSP s.sp e)) := rfl

/-- The flags of `AddSP`: the low byte of `SP` plus the offset as an unsigned byte. -/
theorem flagsAre_addSP (sp : Word) (e : Byte) :
    FlagsAre (addSP sp e).2 False False
      (15 < sp.toNat % 16 + e.toNat % 16) (255 < sp.toNat % 256 + e.toNat) := by
  obtain ⟨-, zero, subtract, half, carry⟩ := addSP_spec sp e
  exact ⟨iff_false_intro (Bool.eq_false_iff.mp zero),
    iff_false_intro (Bool.eq_false_iff.mp subtract), half, carry⟩

/-- A write of `SP` and the flags writes no 8-bit register. -/
theorem keepsR8_sp_flags (s : State) (w : Word) (f : Flags) :
    KeepsR8 [] s { s with sp := w, f := f } := by
  intro r _
  cases r <;> rfl

/-- `ADD SP,e8` puts the sum of `AddSP` into `SP`, and changes nothing else but the flags. -/
theorem completes_addSPE8 (s : State) (e : Byte) :
    Completes (.addSPE8 e) s fun t =>
      (t.sp.toNat : Int) = (s.sp.toNat + e.toInt) % 65536 ∧
        FlagsAre t.f False False
          (15 < s.sp.toNat % 16 + e.toNat % 16) (255 < s.sp.toNat % 256 + e.toNat) ∧
        t.pc = s.pc ∧ KeepsR8 [] s t ∧ KeepsControl s t ∧ Accessed [] s t := by
  obtain ⟨sum, -⟩ := addSP_spec s.sp e
  exact ⟨_, exec_addSPE8 s e, sum, flagsAre_addSP s.sp e, rfl, keepsR8_sp_flags s _ _,
    ⟨rfl, rfl, rfl, rfl⟩, accessed_nil rfl rfl rfl⟩

/-- `LD HL,SP+e8` puts the sum of `AddSP` into `HL`, and changes nothing else but the flags. -/
theorem completes_ldHLSPE8 (s : State) (e : Byte) :
    Completes (.ldHLSPE8 e) s fun t =>
      ((getHL t).toNat : Int) = (s.sp.toNat + e.toInt) % 65536 ∧
        FlagsAre t.f False False
          (15 < s.sp.toNat % 16 + e.toNat % 16) (255 < s.sp.toNat % 256 + e.toNat) ∧
        OnlyR8 [.h, .l] [] s t := by
  obtain ⟨sum, -⟩ := addSP_spec s.sp e
  refine ⟨_, exec_ldHLSPE8 s e, ?_, flagsAre_addSP s.sp e, onlyR8_setHLFlags s _⟩
  rw [getHL_setHLFlags, sum]

/-- Settles O34: the two instructions share `AddSP` and differ in where its sum goes. -/
theorem addSPResult : Obligations.AddSPResult := fun s e =>
  ⟨completes_addSPE8 s e, completes_ldHLSPE8 s e⟩

end Sys2Proof.Proofs.StackPointerSums
end

section
/-! PROOF. The rotates and shifts (spec 43_rotate_shift.md): in every operand form the instruction puts
the byte of its picture (rule R240) back where it was read, and the bit that falls out into `C`. -/

namespace Sys2Proof.Proofs.RotatesAndShifts

open Sys2Proof.Machine Sys2Proof.Claims

/-! ### The seven pictures under one name -/

/-- The picture of each operation: the result and the bit that falls out, for a value and the old
carry. -/
def rotated (v : Byte) (cin : Bool) : Rot → Byte × Bool
  | .rl => rotRL v cin
  | .rlc => rotRLC v
  | .rr => rotRR v cin
  | .rrc => rotRRC v
  | .sla => shiftSLA v
  | .sra => shiftSRA v
  | .srl => shiftSRL v

/-- Each picture as numbers (43_rotate_shift.md rule R240). -/
theorem rotated_spec (v : Byte) (cin : Bool) (op : Rot) :
    (rotated v cin op).1.toNat = rotResult v.toNat cin.toNat op ∧
      (rotated v cin op).2.toNat = rotCarry v.toNat op := by
  cases op with
  | rl => exact rotRL_spec v cin
  | rlc => exact rotRLC_spec v
  | rr => exact rotRR_spec v cin
  | rrc => exact rotRRC_spec v
  | sla => exact shiftSLA_spec v
  | sra => exact shiftSRA_spec v
  | srl => exact shiftSRL_spec v

theorem rotated_carry (v : Byte) (cin : Bool) (op : Rot) :
    (rotated v cin op).2 = true ↔ rotCarry v.toNat op = 1 := by
  rw [← (rotated_spec v cin op).2, Bool.toNat_eq_one]

/-- The flags of the `CB_OP` forms: `Z` from the result. -/
theorem flagsAre_rotFlags (v : Byte) (cin : Bool) (op : Rot) :
    FlagsAre (rotFlags (rotated v cin op)).2 ((rotated v cin op).1 = 0) False False
      (rotCarry v.toNat op = 1) :=
  ⟨beq_iff_eq, Bool.false_eq_true.to_iff, Bool.false_eq_true.to_iff, rotated_carry v cin op⟩

/-- The flags of the forms on `A` alone: `Z` is 0. -/
theorem flagsAre_rotFlagsA (v : Byte) (cin : Bool) (op : Rot) :
    FlagsAre (rotFlagsA (rotated v cin op)).2 False False False (rotCarry v.toNat op = 1) :=
  ⟨Bool.false_eq_true.to_iff, Bool.false_eq_true.to_iff, Bool.false_eq_true.to_iff,
    rotated_carry v cin op⟩

/-! ### Each instruction as its picture in one of the three forms -/

theorem exec_rotR8 (s : State) (op : Rot) (r : R8) : exec (rotR8 op r) s =
    .next (modifyR8 s r fun v => rotFlags (rotated v s.f.c op)) := by
  cases op <;> rfl

theorem exec_rotAtHL (s : State) (op : Rot) : exec (rotAtHL op) s =
    .next (modifyAtHL s fun v => rotFlags (rotated v s.f.c op)) := by
  cases op <;> rfl

theorem exec_rotA (s : State) {i : Instr} {op : Rot}
    (h : (i, op) ∈ [(Instr.rla, Rot.rl), (.rlca, .rlc), (.rra, .rr), (.rrca, .rrc)]) :
    exec i s = .next (setAFlags s (rotFlagsA (rotated s.a s.f.c op))) := by
  simp only [List.mem_cons, Prod.mk.injEq, List.not_mem_nil, or_false] at h
  obtain ⟨rfl, rfl⟩ | ⟨rfl, rfl⟩ | ⟨rfl, rfl⟩ | ⟨rfl, rfl⟩ := h <;> rfl

/-! ### What each form does -/

/-- A read-modify-write of the byte at `HL` puts the new byte there, and changes nothing else but the
flags. -/
theorem modifiesAtHL_modifyAtHL (s : State) (g : Byte → Byte × Flags) :
    ModifiesAtHL (g (peek s (getHL s))).1 s (modifyAtHL s g) := by
  refine ⟨fun hram => ?_, onlyR8_modifyAtHL s g⟩
  rw [storedByte_modifyAtHL, if_pos ⟨hram, rfl⟩]

theorem completes_rotR8 (s : State) (op : Rot) (r : R8) :
    Completes (rotR8 op r) s fun t =>
      (getR8 t r).toNat = rotResult (getR8 s r).toNat s.f.c.toNat op ∧
        FlagsAre t.f (getR8 t r = 0) False False (rotCarry (getR8 s r).toNat op = 1) ∧
        OnlyR8 [r] [] s t := by
  refine ⟨_, exec_rotR8 s op r, ?_, ?_, onlyR8_modifyR8 s r _⟩
  · rw [getR8_modifyR8]
    exact (rotated_spec (getR8 s r) s.f.c op).1
  · rw [getR8_modifyR8, modifyR8_f]
    exact flagsAre_rotFlags (getR8 s r) s.f.c op

theorem completes_rotAtHL (s : State) (op : Rot) :
    Completes (rotAtHL op) s fun t => ∃ v : Byte,
      v.toNat = rotResult (peek s (getHL s)).toNat s.f.c.toNat op ∧
        FlagsAre t.f (v = 0) False False (rotCarry (peek s (getHL s)).toNat op = 1) ∧
        ModifiesAtHL v s t :=
  ⟨_, exec_rotAtHL s op, (rotated (peek s (getHL s)) s.f.c op).1, (rotated_spec _ s.f.c op).1,
    flagsAre_rotFlags (peek s (getHL s)) s.f.c op, modifiesAtHL_modifyAtHL s _⟩

theorem completes_rotA (s : State) {i : Instr} {op : Rot}
    (h : (i, op) ∈ [(Instr.rla, Rot.rl), (.rlca, .rlc), (.rra, .rr), (.rrca, .rrc)]) :
    Completes i s fun t =>
      t.a.toNat = rotResult s.a.toNat s.f.c.toNat op ∧
        FlagsAre t.f False False False (rotCarry s.a.toNat op = 1) ∧ OnlyR8 [.a] [] s t :=
  ⟨_, exec_rotA s h, (rotated_spec s.a s.f.c op).1, flagsAre_rotFlagsA s.a s.f.c op,
    onlyR8_setAFlags s _⟩

/-- Settles O39: one picture in three operand forms, and the forms on `A` alone write `Z` with 0. -/
theorem rotateShiftResult : Obligations.RotateShiftResult := fun s op r =>
  ⟨completes_rotR8 s op r, completes_rotAtHL s op, fun _ h => completes_rotA s h⟩

end Sys2Proof.Proofs.RotatesAndShifts
end

section
/-! PROOF. How a step can end (spec 60_exceptions.md rules R400 and R401): an instruction that can fault
is one byte long, so nothing is fetched after the byte that raises the fault. -/

namespace Sys2Proof.Proofs.StepFaults

open Sys2Proof.Machine Sys2Proof.Claims

/-! ### The instructions that can fault -/

/-- Every instruction completes, but for the eleven bytes that encode nothing (30_encoding.md rule R116)
and `HALT` in the bug condition under the policy `fault` (47_misc.md rule R376). -/
theorem exec_fault_cases (i : Instr) (s : State) :
    (∃ t, exec i s = .next t) ∨
      (∃ op ∈ illegalRows.map Prod.fst,
        encode i = [op] ∧ exec i s = .fault (.illegalOpcode op s)) ∨
      (encode i = [0x76] ∧ s.params.haltBugPolicy = .fault ∧ s.ime = false ∧ pending s ≠ 0 ∧
        exec i s = .fault (.haltBug s)) := by
  cases i with
  | halt =>
    obtain ⟨-, hnext⟩ | ⟨⟨hime, hpending⟩, hpolicy, hfault⟩ | ⟨-, -, hnext⟩ :=
      haltUnder_cases s.params.haltBugPolicy s
    · exact .inl ⟨_, hnext⟩
    · exact .inr (.inr ⟨rfl, hpolicy, hime, hpending, hfault⟩)
    · exact .inl ⟨_, hnext⟩
  | illegalD3 | illegalDB | illegalDD | illegalE3 | illegalE4 | illegalEB | illegalEC | illegalED
  | illegalF4 | illegalFC | illegalFD =>
    refine .inr (.inl ⟨_, ?_, rfl, rfl⟩)
    decide
  | _ => exact .inl ⟨_, rfl⟩

/-! ### Instructions of one byte -/

/-- The encoding of the instruction that a format is by itself, where byte 0 is the whole of it
(30_encoding.md rule R101). -/
def opEncoding : Format → Option (List Byte)
  | .op i => some (encode i)
  | _ => none

theorem opEncoding_formatOf : ∀ byte0 : Byte, ∀ bytes ∈ opEncoding (formatOf byte0),
    bytes = [byte0] := by
  decide

/-- An instruction with bytes after byte 0 has as many as its format fetches (30_encoding.md
rule R101). -/
def OperandLengths : Format → Prop
  | .op _ => True
  | .opByte f => ∀ n, (encode (f n)).length = 2
  | .opWord f => ∀ n, (encode (f n)).length = 3
  | .cbOp => ∀ byte1, (encode (decodeCb byte1)).length = 2

theorem encode_length_r8OrAtHL {k : Nat} {reg : R8 → Instr} {atHL : Instr} (code : BitVec 3)
    (hreg : ∀ r, (encode (reg r)).length = k) (hHL : (encode atHL).length = k) :
    (encode (r8OrAtHL code reg atHL)).length = k := by
  unfold r8OrAtHL
  split
  · exact hreg _
  · exact hHL

theorem encode_length_r16OrOther {k : Nat} {pair : R16 → Instr} {other : Instr} (p : BitVec 2)
    (hpair : ∀ q, (encode (pair q)).length = k) (hother : (encode other).length = k) :
    (encode (r16OrOther p pair other)).length = k := by
  unfold r16OrOther
  split
  · exact hpair .bc
  · exact hpair .de
  · exact hpair .hl
  · exact hother

theorem encode_length_decodeCb (byte1 : Byte) : (encode (decodeCb byte1)).length = 2 := by
  simp only [decodeCb]
  split
  · split <;> exact encode_length_r8OrAtHL _ (fun _ => rfl) rfl
  all_goals exact encode_length_r8OrAtHL _ (fun _ => rfl) rfl

/-- Column by column (`z`) of the rows `x = 0` of 30_encoding.md rule R114. -/
theorem operandLengths_formatX0 (y z : BitVec 3) : OperandLengths (formatX0 y z) := by
  simp only [formatX0]
  split
  · split
    · trivial
    all_goals exact fun _ => rfl
  · split
    · trivial
    · exact fun _ => encode_length_r16OrOther _ (fun _ => rfl) rfl
  · split <;> trivial
  · split <;> trivial
  · trivial
  · trivial
  · exact fun _ => encode_length_r8OrAtHL _ (fun _ => rfl) rfl
  · split <;> trivial

/-- Column by column of the rows `x = 3`, `CB_OP` among them. -/
theorem operandLengths_formatX3 (y z : BitVec 3) : OperandLengths (formatX3 y z) := by
  simp only [formatX3]
  split
  · split
    case h_5 => trivial
    all_goals exact fun _ => rfl
  · split
    · split <;> trivial
    · trivial
  · split
    case h_1 | h_3 => trivial
    all_goals exact fun _ => rfl
  · split
    case h_1 => exact fun _ => rfl
    case h_2 => exact encode_length_decodeCb
    all_goals trivial
  · split
    case h_5 => exact fun _ => rfl
    all_goals trivial
  · split
    · split
      case h_1 => exact fun _ => rfl
      all_goals trivial
    · trivial
  · split <;> exact fun _ => rfl
  · trivial

theorem operandLengths_formatOf (byte0 : Byte) : OperandLengths (formatOf byte0) := by
  simp only [formatOf]
  split
  · exact operandLengths_formatX0 ..
  · trivial
  · trivial
  · exact operandLengths_formatX3 ..

/-- An instruction of one byte is fetched by reading that byte and nothing after it (30_encoding.md
rule R103). -/
theorem fetchInstr_of_encode_singleton {s : State} {op : Byte}
    (h : encode (fetchInstr s).1 = [op]) :
    (fetch8 s).1 = op ∧ (fetchInstr s).2 = (fetch8 s).2 := by
  unfold fetchInstr at h ⊢
  have hop := opEncoding_formatOf (fetch8 s).1
  have hlength := operandLengths_formatOf (fetch8 s).1
  generalize formatOf (fetch8 s).1 = format at h hop hlength
  cases format with
  | op i => exact ⟨List.singleton_injective ((hop _ rfl).symm.trans h), rfl⟩
  | opByte f => cases (hlength _).symm.trans (congrArg List.length h)
  | opWord f => cases (hlength _).symm.trans (congrArg List.length h)
  | cbOp => cases (hlength _).symm.trans (congrArg List.length h)

/-! ### The step -/

/-- The machine awake with the byte at `PC` read (60_exceptions.md rule R420): `PC` past the byte, or,
in a double fetch, at it with `halt_bug` used up (70_reset_and_hazards.md rule R461). -/
def firstByteFetched (s : State) : State :=
  { (memRead s s.pc).2 with
    mode := .running, haltBug := false, pc := if s.haltBug then s.pc else s.pc + 1 }

theorem fetch8_wake (s : State) : fetch8 (wake s) = (peek s s.pc, firstByteFetched s) := by
  rw [firstByteFetched]
  cases h : s.haltBug
  · rw [fetch8_of_not_haltBug (wake s) h, if_neg Bool.false_ne_true, ← h]
    rfl
  · rw [fetch8_of_haltBug (wake s) h, if_pos rfl]
    rfl

/-- A byte that is an instruction by itself is the one at `PC`, and its instruction runs on the state
with that byte fetched. -/
theorem fetchInstr_wake_of_encode_singleton {s : State} {op : Byte}
    (h : encode (fetchInstr (wake s)).1 = [op]) :
    peek s s.pc = op ∧ (fetchInstr (wake s)).2 = firstByteFetched s := by
  have hfetch := fetchInstr_of_encode_singleton h
  rwa [fetch8_wake] at hfetch

/-- Settles O8: only the step that executes an instruction can fault; the instruction is then one byte
long, so the fault holds the state with that byte fetched. -/
theorem stepFaultCases : Obligations.StepFaultCases := by
  intro s
  obtain ⟨-, hstep⟩ | ⟨-, src, -, hstep⟩ | ⟨-, -, hstep⟩ := step_cases s
  · exact .inl ⟨_, hstep⟩
  · exact .inl ⟨_, hstep⟩
  obtain ⟨t, hexec⟩ | ⟨op, hillegal, hbytes, hexec⟩ | ⟨hbytes, hpolicy, hime, hpending, hexec⟩ :=
    exec_fault_cases (fetchInstr (wake s)).1 (fetchInstr (wake s)).2
  · rw [hexec] at hstep
    exact .inl ⟨_, hstep⟩
  · obtain ⟨rfl, hfetched⟩ := fetchInstr_wake_of_encode_singleton hbytes
    rw [hexec, hfetched] at hstep
    exact .inr (.inl ⟨hillegal, hstep⟩)
  · obtain ⟨hbyte, hfetched⟩ := fetchInstr_wake_of_encode_singleton hbytes
    rw [hfetched] at hpolicy hime hpending
    rw [hexec, hfetched] at hstep
    exact .inr (.inr ⟨hbyte, hpolicy, hime, hpending, hstep⟩)

end Sys2Proof.Proofs.StepFaults
end

section
/-! PROOF. The mode `Stopped` (spec 60_exceptions.md rule R430, 47_misc.md rule R388): a step leaves a
stopped machine as it is, so any number of steps does, and a request leaves the mode as it is. -/

namespace Sys2Proof.Proofs.StoppedMode

open Sys2Proof.Machine

theorem step_of_stopped (s : State) (h : s.mode = .stopped) : step s = .next s := by
  rw [step, plan_stay s (.inl h)]

/-- A state that a step leaves as it is stays through any number of steps. -/
theorem steps_of_fixed (s : State) (h : step s = .next s) (k : Nat) : steps k s = .next s := by
  induction k with
  | zero => rfl
  | succ k ih => rw [steps, h]; exact ih

theorem steps_of_stopped (s : State) (h : s.mode = .stopped) (k : Nat) : steps k s = .next s :=
  steps_of_fixed s (step_of_stopped s h) k

/-- Settles O16: a request does not change the mode, and a stopped machine stays as it is, before the
request and after it. -/
theorem stoppedForEver : Obligations.StoppedForEver :=
  ⟨fun _ _ => rfl, fun s k requests h =>
    ⟨steps_of_stopped s h k,
      steps_of_stopped _ ((environmentMove_mode requests s).trans h) k⟩⟩

end Sys2Proof.Proofs.StoppedMode
end

section
/-! PROOF. The decoder and the encoder (spec 30_encoding.md rules R100 to R119): each format is read
back from the bytes of its instruction, and each instruction a format makes has those bytes as its
encoding. -/

namespace Sys2Proof.Proofs.DecoderEncoder

open Sys2Proof.Machine Sys2Proof.Claims

/-! ### Reading one format -/

section
variable {op byte1 : Byte} {i : Instr}

theorem decode_op (h : formatOf op = .op i) (rest : List Byte) :
    decode ([op] ++ rest) = .ok (i, rest) := by
  simp only [List.singleton_append, decode, h]

theorem decode_opByte {f : Byte → Instr} (h : formatOf op = .opByte f) (n : Byte)
    (rest : List Byte) : decode ([op, n] ++ rest) = .ok (f n, rest) := by
  simp only [List.cons_append, List.nil_append, decode, h]

/-- The operand comes back from its two bytes, the low one first (rule R105). -/
theorem decode_opWord {f : Word → Instr} (h : formatOf op = .opWord f) (n : Word)
    (rest : List Byte) : decode (encodeWord op n ++ rest) = .ok (f n, rest) := by
  simp only [encodeWord, List.cons_append, List.nil_append, decode, h, wordOf_hiByte_loByte]

theorem decode_cbOp (h : decodeCb byte1 = i) (rest : List Byte) :
    decode ([0xCB, byte1] ++ rest) = .ok (i, rest) := h ▸ rfl

end

/-! ### From an instruction to its bytes and back -/

theorem decodeCb_bitR8 (u : BitVec 3) (r : R8) :
    decodeCb (0x40 + 8 * bitCode u + r.code) = .bitR8 u r := by
  cases r <;> revert u <;> decide

theorem decodeCb_resR8 (u : BitVec 3) (r : R8) :
    decodeCb (0x80 + 8 * bitCode u + r.code) = .resR8 u r := by
  cases r <;> revert u <;> decide

theorem decodeCb_setR8 (u : BitVec 3) (r : R8) :
    decodeCb (0xC0 + 8 * bitCode u + r.code) = .setR8 u r := by
  cases r <;> revert u <;> decide

theorem decodeCb_bitAtHL : ∀ u, decodeCb (0x46 + 8 * bitCode u) = .bitAtHL u := by decide

theorem decodeCb_resAtHL : ∀ u, decodeCb (0x86 + 8 * bitCode u) = .resAtHL u := by decide

theorem decodeCb_setAtHL : ∀ u, decodeCb (0xC6 + 8 * bitCode u) = .setAtHL u := by decide

theorem formatOf_ldR8R8 (dst src : R8) :
    formatOf (0x40 + 8 * dst.code + src.code) = .op (.ldR8R8 dst src) := by
  cases dst <;> cases src <;> rfl

/-- The eight restart vectors are the eight values of the field `y`. -/
theorem formatOf_rstVec {vec : Byte} (h : (Instr.rstVec vec).WellFormed = true) :
    formatOf (0xC7 + vec) = .op (.rstVec vec) := by
  simp only [Instr.WellFormed, restartVectors, List.contains_iff_mem, List.mem_cons,
    List.not_mem_nil, or_false] at h
  obtain rfl | rfl | rfl | rfl | rfl | rfl | rfl | rfl := h <;> rfl

/-- Settles O1: by the format of each instruction, whose opcode is read off the fields of its first
byte for every register, pair and condition in it. -/
theorem encodeThenDecode : Obligations.EncodeThenDecode := by
  intro i rest wf
  cases i with
  | adcAR8 r | addAR8 r | andAR8 r | cpAR8 r | decR8 r | incR8 r | orAR8 r | sbcAR8 r | subAR8 r
  | xorAR8 r | ldAtHLR8 r | ldR8AtHL r => exact decode_op (by cases r <;> rfl) rest
  | addHLR16 p | decR16 p | incR16 p | popR16 p | pushR16 p =>
    exact decode_op (by cases p <;> rfl) rest
  | ldAtR16A p | ldAAtR16 p =>
    cases p with
    | bc | de => exact decode_op rfl rest
    | hl => cases wf
  | ldR8R8 dst src => exact decode_op (formatOf_ldR8R8 dst src) rest
  | retCc cc => exact decode_op (by cases cc <;> rfl) rest
  | rstVec vec => exact decode_op (formatOf_rstVec wf) rest
  | bitR8 u r => exact decode_cbOp (decodeCb_bitR8 u r) rest
  | resR8 u r => exact decode_cbOp (decodeCb_resR8 u r) rest
  | setR8 u r => exact decode_cbOp (decodeCb_setR8 u r) rest
  | bitAtHL u => exact decode_cbOp (decodeCb_bitAtHL u) rest
  | resAtHL u => exact decode_cbOp (decodeCb_resAtHL u) rest
  | setAtHL u => exact decode_cbOp (decodeCb_setAtHL u) rest
  | swapR8 r | rlR8 r | rlcR8 r | rrR8 r | rrcR8 r | slaR8 r | sraR8 r | srlR8 r =>
    exact decode_cbOp (by cases r <;> rfl) rest
  | swapAtHL | rlAtHL | rlcAtHL | rrAtHL | rrcAtHL | slaAtHL | sraAtHL | srlAtHL =>
    exact decode_cbOp rfl rest
  | ldR8N8 r n => exact decode_opByte (f := .ldR8N8 r) (by cases r <;> rfl) n rest
  | jrCcE8 cc e => exact decode_opByte (f := .jrCcE8 cc) (by cases cc <;> rfl) e rest
  | adcAN8 n | addAN8 n | andAN8 n | cpAN8 n | orAN8 n | sbcAN8 n | subAN8 n | xorAN8 n | addSPE8 n
  | ldAtHLN8 n | ldHighN8A n | ldAHighN8 n | ldHLSPE8 n | jrE8 n | stop n =>
    exact decode_opByte rfl n rest
  | ldR16N16 p n => exact decode_opWord (f := .ldR16N16 p) (by cases p <;> rfl) n rest
  | callCcN16 cc n => exact decode_opWord (f := .callCcN16 cc) (by cases cc <;> rfl) n rest
  | jpCcN16 cc n => exact decode_opWord (f := .jpCcN16 cc) (by cases cc <;> rfl) n rest
  | ldAtN16A n | ldAAtN16 n | ldSPN16 n | ldAtN16SP n | callN16 n | jpN16 n =>
    exact decode_opWord rfl n rest
  | _ => exact decode_op rfl rest

/-- Settles O4: nine words read by their first byte. -/
theorem decodedWords : Obligations.DecodedWords :=
  ⟨rfl, rfl, rfl, rfl, rfl, rfl, rfl, rfl, rfl⟩

/-! ### From bytes to the instruction they are -/

/-- The instruction is well-formed, and its encoding is those bytes. -/
def EncodedAs (bytes : List Byte) (i : Instr) : Prop := i.WellFormed = true ∧ encode i = bytes

/-- The first byte of what a format makes. -/
def opcodeOf : Format → List Byte
  | .op i => encode i
  | .opByte f | .opWord f => (encode (f 0)).take 1
  | .cbOp => [0xCB]

/-- What a format makes of every value of its operand has that value after one opcode, the same for
all. -/
def OperandEncodes : Format → Prop
  | .op _ | .cbOp => True
  | .opByte f => ∀ n, EncodedAs (opcodeOf (.opByte f) ++ [n]) (f n)
  | .opWord f => ∀ n, EncodedAs (opcodeOf (.opWord f) ++ [loByte n, hiByte n]) (f n)

theorem encodedAs_r8OrAtHL {reg : Byte → R8 → Instr} {atHL : Byte → Instr} (code : BitVec 3)
    (hreg : ∀ n r, EncodedAs ((encode (reg 0 r)).take 1 ++ [n]) (reg n r))
    (hHL : ∀ n, EncodedAs ((encode (atHL 0)).take 1 ++ [n]) (atHL n)) (n : Byte) :
    EncodedAs ((encode (r8OrAtHL code (reg 0) (atHL 0))).take 1 ++ [n])
      (r8OrAtHL code (reg n) (atHL n)) := by
  unfold r8OrAtHL
  split
  · exact hreg n _
  · exact hHL n

theorem encodedAs_r16OrOther {pair : Word → R16 → Instr} {other : Word → Instr} (p : BitVec 2)
    (hpair : ∀ n q,
      EncodedAs ((encode (pair 0 q)).take 1 ++ [loByte n, hiByte n]) (pair n q))
    (hother : ∀ n, EncodedAs ((encode (other 0)).take 1 ++ [loByte n, hiByte n]) (other n))
    (n : Word) :
    EncodedAs ((encode (r16OrOther p (pair 0) (other 0))).take 1 ++ [loByte n, hiByte n])
      (r16OrOther p (pair n) (other n)) := by
  unfold r16OrOther
  split
  · exact hpair n .bc
  · exact hpair n .de
  · exact hpair n .hl
  · exact hother n

theorem operandEncodes_formatX0 (y z : BitVec 3) : OperandEncodes (formatX0 y z) := by
  simp only [formatX0]
  split
  · split
    · trivial
    all_goals exact fun _ => ⟨rfl, rfl⟩
  · split
    · trivial
    · exact encodedAs_r16OrOther _ (fun _ _ => ⟨rfl, rfl⟩) fun _ => ⟨rfl, rfl⟩
  · split <;> trivial
  · split <;> trivial
  · trivial
  · trivial
  · exact encodedAs_r8OrAtHL _ (fun _ _ => ⟨rfl, rfl⟩) fun _ => ⟨rfl, rfl⟩
  · split <;> trivial

theorem operandEncodes_formatX3 (y z : BitVec 3) : OperandEncodes (formatX3 y z) := by
  simp only [formatX3]
  split
  · split
    case h_5 => trivial
    all_goals exact fun _ => ⟨rfl, rfl⟩
  · split
    · split <;> trivial
    · trivial
  · split
    case h_1 | h_3 => trivial
    all_goals exact fun _ => ⟨rfl, rfl⟩
  · split
    case h_1 => exact fun _ => ⟨rfl, rfl⟩
    all_goals trivial
  · split
    case h_5 => exact fun _ => ⟨rfl, rfl⟩
    all_goals trivial
  · split
    · split
      case h_1 => exact fun _ => ⟨rfl, rfl⟩
      all_goals trivial
    · trivial
  · split <;> exact fun _ => ⟨rfl, rfl⟩
  · trivial

theorem operandEncodes_formatOf (op : Byte) : OperandEncodes (formatOf op) := by
  simp only [formatOf]
  split
  · exact operandEncodes_formatX0 ..
  · trivial
  · trivial
  · exact operandEncodes_formatX3 ..

theorem opcodeOf_formatOf : ∀ op : Byte, opcodeOf (formatOf op) = [op] := by decide

/-- An instruction that is a format by itself is well-formed. -/
def OpWellFormed : Format → Bool
  | .op i => i.WellFormed
  | _ => true

theorem opWellFormed_formatOf : ∀ op : Byte, OpWellFormed (formatOf op) = true := by decide

/-- Every instruction that a format makes is encoded by the opcode `op` and its operand bytes. -/
def EncodesFrom (op : Byte) : Format → Prop
  | .op i => EncodedAs [op] i
  | .opByte f => ∀ n, EncodedAs ([op] ++ [n]) (f n)
  | .opWord f => ∀ n, EncodedAs ([op] ++ [loByte n, hiByte n]) (f n)
  | .cbOp => op = 0xCB

theorem encodesFrom_formatOf (op : Byte) : EncodesFrom op (formatOf op) := by
  have hop := opcodeOf_formatOf op
  have hwf := opWellFormed_formatOf op
  have hoperand := operandEncodes_formatOf op
  generalize formatOf op = format at hop hwf hoperand ⊢
  cases format with
  | op i => exact ⟨hwf, hop⟩
  | opByte f => exact fun n => by rw [← hop]; exact hoperand n
  | opWord f => exact fun n => by rw [← hop]; exact hoperand n
  | cbOp => exact (List.singleton_injective hop).symm

theorem encodedAs_decodeCb : ∀ byte1 : Byte,
    EncodedAs [0xCB, byte1] (decodeCb byte1) := by
  unfold EncodedAs
  decide

/-- Settles O2: the opcode and the operand bytes that a format reads are the encoding of the
instruction it makes of them. -/
theorem decodeThenEncode : Obligations.DecodeThenEncode := by
  intro bytes rest i h
  cases bytes with
  | nil => cases h
  | cons op tail =>
    have hformat := encodesFrom_formatOf op
    simp only [decode] at h
    generalize formatOf op = format at h hformat
    have encoded {front : List Byte} (hread : EncodedAs front i)
        (hbytes : op :: tail = front ++ rest) :
        i.WellFormed = true ∧ op :: tail = encode i ++ rest := ⟨hread.1, hread.2 ▸ hbytes⟩
    match format, tail, h with
    | .op _, _, h => cases h; exact encoded hformat rfl
    | .opByte _, n :: _, h => cases h; exact encoded (hformat n) rfl
    | .opWord _, low :: high :: _, h =>
      cases h
      exact encoded (hformat (wordOf high low)) (by rw [loByte_wordOf, hiByte_wordOf]; rfl)
    | .cbOp, byte1 :: _, h =>
      cases h
      cases hformat
      exact encoded (encodedAs_decodeCb byte1) rfl

/-! ### Three bytes are enough, and eleven first bytes are no instruction -/

theorem encode_length (i : Instr) : (encode i).length = instrBytes i := by
  cases i <;> rfl

theorem instrBytes_bounds (i : Instr) : 1 ≤ instrBytes i ∧ instrBytes i ≤ 3 := by
  cases i <;> simp [instrBytes]

theorem decode_three_bytes (b0 b1 b2 : Byte) (rest : List Byte) :
    ∃ i rest', decode (b0 :: b1 :: b2 :: rest) = .ok (i, rest') := by
  simp only [decode]
  cases formatOf b0 <;> exact ⟨_, _, rfl⟩

/-- What is left is the bytes after the length of the instruction read (30_encoding.md rule R103).
-/
theorem rest_of_decode {bytes rest : List Byte} {i : Instr} (h : decode bytes = .ok (i, rest)) :
    rest = bytes.drop (instrBytes i) := by
  obtain ⟨-, rfl⟩ := decodeThenEncode bytes rest i h
  rw [← encode_length, List.drop_left]

theorem mem_illegalRows_of_not_legal (i : Instr) (h : i.isLegal = false) :
    ∃ op, (op, i) ∈ illegalRows := by
  cases i with
  | illegalD3 | illegalDB | illegalDD | illegalE3 | illegalE4 | illegalEB | illegalEC | illegalED
  | illegalF4 | illegalFC | illegalFD => simp [illegalRows]
  | _ => cases h

theorem wellFormed_of_mem_illegalRows : ∀ row ∈ illegalRows, row.2.WellFormed = true := by decide

/-- The instruction read is not legal exactly when its first byte is one of the eleven. -/
theorem not_legal_iff_of_decode {op : Byte} {tail rest : List Byte} {i : Instr}
    (h : decode (op :: tail) = .ok (i, rest)) :
    i.isLegal = false ↔ op ∈ illegalRows.map Prod.fst := by
  constructor
  · intro hlegal
    obtain ⟨byte, hrow⟩ := mem_illegalRows_of_not_legal i hlegal
    obtain ⟨-, hbytes⟩ := decodeThenEncode _ _ _ h
    rw [(OpcodeTable.not_legal_of_mem_illegalRows _ hrow).1] at hbytes
    obtain rfl : op = byte := (List.cons.inj hbytes).1
    exact List.mem_map_of_mem (f := Prod.fst) hrow
  · intro hop
    obtain ⟨row, hrow, rfl⟩ := List.mem_map.mp hop
    obtain ⟨hencode, hlegal⟩ := OpcodeTable.not_legal_of_mem_illegalRows row hrow
    have hdecode := encodeThenDecode row.2 tail (wellFormed_of_mem_illegalRows row hrow)
    rw [hencode] at hdecode
    cases hdecode.symm.trans h
    exact hlegal

/-- Settles O3: a format reads at most three bytes, and what it reads is the encoding of its
instruction. -/
theorem decodeIsTotal : Obligations.DecodeIsTotal := by
  intro b0 b1 b2 rest
  obtain ⟨i, rest', h⟩ := decode_three_bytes b0 b1 b2 rest
  refine ⟨i, rest_of_decode h ▸ h, (instrBytes_bounds i).1, (instrBytes_bounds i).2, ?_,
    not_legal_iff_of_decode h⟩
  rintro rfl
  cases h
  rw [← encode_length, StepFaults.encode_length_decodeCb]

end Sys2Proof.Proofs.DecoderEncoder
end

section
/-! PROOF. The assembler (spec 30_encoding.md rules R126 to R130): each operand value is read back
from the number that stands for it, and so each instruction from its line. -/

namespace Sys2Proof.Proofs.AssemblerLines

open Sys2Proof.Machine

/-! ### Operand values as numbers -/

theorem asmN8_toNat (n : Byte) : asmN8 n.toNat = some n := by
  have hn := n.isLt
  rw [asmN8, if_pos (by omega), trunc8, BitVec.ofInt_natCast, BitVec.ofNat_toNat,
    BitVec.setWidth_eq]

theorem asmHigh_toNat (n : Byte) : asmHigh n.toNat = some n := by
  have hn := n.isLt
  rw [asmHigh, if_pos (by omega), trunc8, BitVec.ofInt_natCast, BitVec.ofNat_toNat,
    BitVec.setWidth_eq]

theorem asmN16_toNat (n : Word) : asmN16 n.toNat = some n := by
  have hn := n.isLt
  rw [asmN16, if_pos (by omega), trunc16, BitVec.ofInt_natCast, BitVec.ofNat_toNat,
    BitVec.setWidth_eq]

theorem asmU3_toNat : ∀ u : BitVec 3, asmU3 u.toNat = some u := by decide

theorem asmE8_toInt (e : Byte) : asmE8 e.toInt = some e := by
  have hlow := BitVec.le_toInt e
  have hhigh := BitVec.toInt_lt (x := e)
  rw [asmE8, if_pos (by omega), trunc8, BitVec.ofInt_toInt]

theorem asmE8_signed8 (e : Byte) : asmE8 (signed8 e) = some e := by
  rw [signed8_eq_toInt, asmE8_toInt]

theorem asmVec_toNat {vec : Byte} (h : (Instr.rstVec vec).WellFormed = true) :
    asmVec vec.toNat = some vec := by
  simp only [Instr.WellFormed, restartVectors, List.contains_iff_mem, List.mem_cons,
    List.not_mem_nil, or_false] at h
  obtain rfl | rfl | rfl | rfl | rfl | rfl | rfl | rfl := h <;> rfl

/-- The offset of a `JR` comes back from its target at every address, the last ones included: the
difference is taken within the 16-bit space. -/
theorem asmJrTarget_jrTarget (here : Word) (e : Byte) :
    asmJrTarget here (jrTarget here e) = some e := by
  have offset : here + 2 + sext16 e - (here + 2) = sext16 e := by bv_omega
  rw [asmJrTarget, jrTarget, asmN16_toNat, Option.bind_some, offset, sext16,
    BitVec.toInt_signExtend_of_le (by omega), asmE8_toInt]

/-! ### Lines -/

/-- By the operands of the line: with no number among them the assembler answers the instruction
itself; a number is read back by the lemma of its class. -/
theorem assemble_disassemble (here : Word) (i : Instr) (wf : i.WellFormed = true) (line : AsmLine)
    (h : disassemble here i = some line) : assemble here line = some i := by
  cases i with
  | adcAN8 n | addAN8 n | andAN8 n | cpAN8 n | orAN8 n | sbcAN8 n | subAN8 n | xorAN8 n
  | ldR8N8 _ n | ldAtHLN8 n => cases h; exact congrArg (Option.map _) (asmN8_toNat n)
  | ldR16N16 p n => cases h; cases p <;> exact congrArg (Option.map _) (asmN16_toNat n)
  | ldAtN16A n | ldAAtN16 n | ldSPN16 n | ldAtN16SP n | callN16 n | jpN16 n =>
    cases h; exact congrArg (Option.map _) (asmN16_toNat n)
  | addSPE8 e | ldHLSPE8 e => cases h; exact congrArg (Option.map _) (asmE8_signed8 e)
  | ldHighN8A n | ldAHighN8 n => cases h; exact congrArg (Option.map _) (asmHigh_toNat n)
  | bitR8 u | resR8 u | setR8 u | bitAtHL u | resAtHL u | setAtHL u =>
    cases h; exact congrArg (Option.map _) (asmU3_toNat u)
  | rstVec vec => cases h; exact congrArg (Option.map _) (asmVec_toNat wf)
  | jrE8 e => cases h; exact congrArg (Option.map _) (asmJrTarget_jrTarget here e)
  | callCcN16 cc n | jpCcN16 cc n =>
    cases h
    cases cc <;> exact congrArg (Option.map _) (asmN16_toNat n)
  | jrCcE8 cc e =>
    cases h
    cases cc <;> exact congrArg (Option.map _) (asmJrTarget_jrTarget here e)
  | retCc cc => cases h; cases cc <;> rfl
  | ldAtR16A p | ldAAtR16 p =>
    cases h
    cases p with
    | bc | de => rfl
    | hl => cases wf
  | stop pad =>
    by_cases hpad : pad = 0x00
    · subst hpad
      cases h
      rfl
    · rw [disassemble, if_neg hpad] at h
      cases h
  | illegalD3 | illegalDB | illegalDD | illegalE3 | illegalE4 | illegalEB | illegalEC | illegalED
  | illegalF4 | illegalFC | illegalFD => cases h
  | _ => cases h; rfl

theorem disassemble_of_legal (here : Word) (i : Instr) (hlegal : i.isLegal = true)
    (hpad : ∀ pad, i = .stop pad → pad = 0x00) : ∃ line, disassemble here i = some line := by
  cases i with
  | stop pad =>
    obtain rfl := hpad pad rfl
    exact ⟨_, rfl⟩
  | illegalD3 | illegalDB | illegalDD | illegalE3 | illegalE4 | illegalEB | illegalEC | illegalED
  | illegalF4 | illegalFC | illegalFD => cases hlegal
  | _ => exact ⟨_, rfl⟩

/-- Settles O5: each number of a line is the value of its operand class, read back. -/
theorem disassembleThenAssemble : Obligations.DisassembleThenAssemble := fun here i wf =>
  ⟨assemble_disassemble here i wf, disassemble_of_legal here i⟩

end Sys2Proof.Proofs.AssemblerLines
end

section
/-! PROOF. `CP`, `AND`, `OR`, `XOR`, `INC` and `DEC` of a byte, and the carry and complement
instructions (spec 40_alu8.md, 47_misc.md): each is one flag computation on the value its operand
form reads. -/

namespace Sys2Proof.Proofs.ByteLogic

open Sys2Proof.Machine Sys2Proof.Claims
open AccumulatorSums RotatesAndShifts

/-! ### `CP` -/

theorem exec_cpOf (s : State) (x : Rhs) : exec (cpOf x) s =
    .next { afterRhs s x with f := (sub8 s.a (rhsValue s x) false).2 } := by
  cases x <;> rfl

/-- A difference with no borrow-in is zero exactly when its two operands are equal. -/
theorem sub8_eq_zero_iff (a x : Byte) : (sub8 a x false).1 = 0 ↔ a = x := by
  obtain ⟨result, -⟩ := sub8_spec a x false
  rw [Bool.toNat_false] at result
  bv_omega

/-- Settles O30: `CP` puts the flags of `Sub8` into `F` after the operand is read, and nothing into
`A`. -/
theorem cpResult : Obligations.CpResult := by
  intro s x
  obtain ⟨-, zero, subtract, half, borrow⟩ := sub8_spec s.a (rhsValue s x) false
  refine ⟨_, exec_cpOf s x,
    ⟨zero.trans (sub8_eq_zero_iff ..), iff_true_intro subtract, half, borrow⟩, ?_,
    _, exec_subOf s x, rfl⟩
  rw [← List.append_nil (rhsAccesses s x)]
  exact (onlyR8_afterRhs s x).trans (onlyR8_flags (afterRhs s x) _)

/-! ### `AND`, `OR` and `XOR` -/

theorem exec_andOf (s : State) (x : Rhs) : exec (andOf x) s =
    .next (setAFlags (afterRhs s x) (and8 s.a (rhsValue s x))) := by
  cases x <;> rfl

theorem exec_orOf (s : State) (x : Rhs) : exec (orOf x) s =
    .next (setAFlags (afterRhs s x) (or8 s.a (rhsValue s x))) := by
  cases x <;> rfl

theorem exec_xorOf (s : State) (x : Rhs) : exec (xorOf x) s =
    .next (setAFlags (afterRhs s x) (xor8 s.a (rhsValue s x))) := by
  cases x <;> rfl

theorem flagsAre_and8 (a x : Byte) :
    FlagsAre (and8 a x).2 ((and8 a x).1 = 0) False True False :=
  ⟨beq_iff_eq, Bool.false_eq_true.to_iff, iff_true_intro rfl, Bool.false_eq_true.to_iff⟩

theorem flagsAre_or8 (a x : Byte) :
    FlagsAre (or8 a x).2 ((or8 a x).1 = 0) False False False :=
  ⟨beq_iff_eq, Bool.false_eq_true.to_iff, Bool.false_eq_true.to_iff, Bool.false_eq_true.to_iff⟩

theorem flagsAre_xor8 (a x : Byte) :
    FlagsAre (xor8 a x).2 ((xor8 a x).1 = 0) False False False :=
  ⟨beq_iff_eq, Bool.false_eq_true.to_iff, Bool.false_eq_true.to_iff, Bool.false_eq_true.to_iff⟩

/-- Settles O31: the three computations bit by bit, with `H` 1 after `AND` only. -/
theorem logicResult : Obligations.LogicResult := fun s x =>
  ⟨⟨_, exec_andOf s x, fun _ _ => BitVec.getLsbD_and, flagsAre_and8 _ _,
      onlyR8_setAFlags_afterRhs s x _⟩,
    ⟨_, exec_orOf s x, fun _ _ => BitVec.getLsbD_or, flagsAre_or8 _ _,
      onlyR8_setAFlags_afterRhs s x _⟩,
    ⟨_, exec_xorOf s x, fun _ _ => BitVec.getLsbD_xor, flagsAre_xor8 _ _,
      onlyR8_setAFlags_afterRhs s x _⟩⟩

/-! ### `INC` and `DEC` of a byte -/

theorem flagsAre_inc8 (v : Byte) (f : Flags) :
    FlagsAre (inc8 v f).2 ((inc8 v f).1 = 0) False (v.toNat % 16 = 15) (f.c = true) := by
  obtain ⟨-, zero, subtract, half, carry⟩ := inc8_spec v f
  exact ⟨zero, iff_false_intro (Bool.eq_false_iff.mp subtract), half, carry ▸ Iff.rfl⟩

theorem flagsAre_dec8 (v : Byte) (f : Flags) :
    FlagsAre (dec8 v f).2 ((dec8 v f).1 = 0) True (v.toNat % 16 = 0) (f.c = true) := by
  obtain ⟨-, zero, subtract, half, carry⟩ := dec8_spec v f
  exact ⟨zero, iff_true_intro subtract, half, carry ▸ Iff.rfl⟩

theorem inc8_eq_zero_iff (v : Byte) (f : Flags) : (inc8 v f).1 = 0 ↔ v = 0xFF := by
  obtain ⟨result, -⟩ := inc8_spec v f
  bv_omega

theorem dec8_eq_zero_iff (v : Byte) (f : Flags) : (dec8 v f).1 = 0 ↔ v = 0x01 := by
  obtain ⟨result, -⟩ := dec8_spec v f
  bv_omega

/-- Settles O32: one computation on a register or on the byte at `HL`. -/
theorem incDecByteResult : Obligations.IncDecByteResult := by
  intro s r
  refine ⟨⟨_, rfl, ?_, ?_, onlyR8_modifyR8 s r _⟩, ⟨_, rfl, ?_, ?_, onlyR8_modifyR8 s r _⟩,
    ⟨_, rfl, _, (inc8_spec _ s.f).1, flagsAre_inc8 _ s.f, modifiesAtHL_modifyAtHL s _⟩,
    ⟨_, rfl, _, (dec8_spec _ s.f).1, flagsAre_dec8 _ s.f, modifiesAtHL_modifyAtHL s _⟩⟩
  · rw [getR8_modifyR8]
    exact (inc8_spec _ s.f).1
  · rw [modifyR8_f, ← inc8_eq_zero_iff _ s.f]
    exact flagsAre_inc8 _ s.f
  · rw [getR8_modifyR8]
    exact (dec8_spec _ s.f).1
  · rw [modifyR8_f, ← dec8_eq_zero_iff _ s.f]
    exact flagsAre_dec8 _ s.f

/-! ### `CCF`, `SCF` and `CPL` -/

theorem flagsAre_ccfFlags (f : Flags) :
    FlagsAre (ccfFlags f) (f.z = true) False False (f.c = false) :=
  ⟨.rfl, Bool.false_eq_true.to_iff, Bool.false_eq_true.to_iff, .of_eq (Bool.not_eq_true' f.c)⟩

theorem flagsAre_scfFlags (f : Flags) : FlagsAre (scfFlags f) (f.z = true) False False True :=
  ⟨.rfl, Bool.false_eq_true.to_iff, Bool.false_eq_true.to_iff, iff_true_intro rfl⟩

theorem flagsAre_cplFlags (f : Flags) :
    FlagsAre (cplFlags f) (f.z = true) True True (f.c = true) :=
  ⟨.rfl, iff_true_intro rfl, iff_true_intro rfl, .rfl⟩

/-- Settles O51: `Z` is copied by each, and only `CPL` writes a register. -/
theorem carryAndComplementResult : Obligations.CarryAndComplementResult := fun s =>
  ⟨⟨_, rfl, flagsAre_ccfFlags s.f, onlyR8_flags s _⟩,
    ⟨_, rfl, flagsAre_scfFlags s.f, onlyR8_flags s _⟩,
    ⟨_, rfl, BitVec.toNat_not, flagsAre_cplFlags s.f,
      onlyR8_setAFlags s (~~~s.a, cplFlags s.f)⟩⟩

end Sys2Proof.Proofs.ByteLogic
end

section
/-! PROOF. `ADD HL`, and `INC` and `DEC` of a pair and of `SP` (spec 41_alu16.md): a 16-bit result
into a pair or into `SP`. -/

namespace Sys2Proof.Proofs.WordArithmetic

open Sys2Proof.Machine Sys2Proof.Claims

/-- A carry out of bit 15 is the bit above the word of the sum. -/
theorem toNat_of_carry {c : Bool} {sum : Nat} (carry : c = true ↔ 65535 < sum)
    (hsum : sum < 131072) : c.toNat = sum / 65536 := by
  cases c with
  | false =>
    have hnone : ¬ 65535 < sum := fun h => by cases carry.mpr h
    rw [Bool.toNat_false]
    omega
  | true =>
    have hone : 65535 < sum := carry.mp rfl
    rw [Bool.toNat_true]
    omega

/-- What an `ADD HL` of the value `v` does (41_alu16.md rule R200). -/
theorem completes_add16 {i : Instr} {s : State} {v : Word}
    (h : exec i s = .next (setHLFlags s (add16 (getHL s) v s.f))) :
    Completes i s fun t =>
      65536 * t.f.c.toNat + (getHL t).toNat = (getHL s).toNat + v.toNat ∧
        t.f.z = s.f.z ∧ t.f.n = false ∧
        (t.f.h = true ↔ 4095 < (getHL s).toNat % 4096 + v.toNat % 4096) ∧
        OnlyR8 [.h, .l] [] s t := by
  obtain ⟨sum, zero, subtract, half, carry⟩ := add16_spec (getHL s) v s.f
  refine ⟨_, h, ?_, zero, subtract, half, onlyR8_setHLFlags s _⟩
  rw [getHL_setHLFlags, setHLFlags_f, sum]
  have hx := (getHL s).isLt
  have hv := v.isLt
  rw [toNat_of_carry carry (by omega)]
  omega

/-- Settles O33: the pairs and `SP` are added in by one computation. -/
theorem addHLResult : Obligations.AddHLResult := by
  rintro s i v (⟨p, rfl, rfl⟩ | ⟨rfl, rfl⟩)
  · exact completes_add16 rfl
  · exact completes_add16 rfl

/-- A write of `SP` changes nothing else. -/
theorem onlyStack_sp (s : State) (w : Word) : OnlyStack [] s { s with sp := w } :=
  ⟨fun r _ => by cases r <;> rfl, rfl, ⟨rfl, rfl, rfl, rfl⟩, accessed_nil rfl rfl rfl⟩

theorem toNat_add_one (w : Word) : (w + 1).toNat = (w.toNat + 1) % 65536 := BitVec.toNat_add w 1

theorem toNat_sub_one (w : Word) : (w - 1).toNat = (w.toNat + 65535) % 65536 := by bv_omega

/-- Settles O35: a pair or `SP` is written with the word next to it modulo 65536, and `F` is not
touched. -/
theorem incDecWordResult : Obligations.IncDecWordResult := by
  intro s p
  refine ⟨⟨_, rfl, ?_, setR16_f .., onlyR8_setR16 ..⟩, ⟨_, rfl, ?_, setR16_f .., onlyR8_setR16 ..⟩,
    ⟨_, rfl, toNat_add_one s.sp, rfl, onlyStack_sp ..⟩,
    ⟨_, rfl, toNat_sub_one s.sp, rfl, onlyStack_sp ..⟩⟩
  · rw [getR16_setR16, if_pos rfl, toNat_add_one]
  · rw [getR16_setR16, if_pos rfl, toNat_sub_one]

end Sys2Proof.Proofs.WordArithmetic
end

section
/-! PROOF. `BIT`, `RES`, `SET` and `SWAP` (spec 42_bit.md) on a register and on the byte at `HL`,
and the rotations that restore what they rotate (95_test_vectors.md law L-6). -/

namespace Sys2Proof.Proofs.BitOperations

open Sys2Proof.Machine Sys2Proof.Claims
open ByteLogic RotatesAndShifts

/-! ### One bit -/

theorem flagsAre_bitFlags (u : BitVec 3) (v : Byte) (f : Flags) :
    FlagsAre (bitFlags u v f) (v.toNat / 2 ^ u.toNat % 2 = 0) False True (f.c = true) := by
  obtain ⟨zero, subtract, half, carry⟩ := bitFlags_spec u v f
  exact ⟨zero, iff_false_intro (Bool.eq_false_iff.mp subtract), iff_true_intro half,
    carry ▸ Iff.rfl⟩

/-- Settles O36: the flags of the tested byte, whichever operand form reads it. -/
theorem bitResult : Obligations.BitResult := by
  rintro s u i v accesses (⟨r, rfl, rfl, rfl⟩ | ⟨rfl, rfl, rfl⟩)
  · exact ⟨_, rfl, flagsAre_bitFlags u _ s.f, onlyR8_flags s _⟩
  · exact ⟨_, rfl, flagsAre_bitFlags u _ s.f, onlyR8_withRead s _ _ (onlyR8_flags _ _)⟩

/-- The one bit written with the value. -/
def writeBit (value : Bool) (u : BitVec 3) (v : Byte) : Byte :=
  if value then set8 u v else res8 u v

theorem getLsbD_writeBit (value : Bool) (u : BitVec 3) (v : Byte) (k : Nat) (hk : k < 8) :
    (writeBit value u v).getLsbD k = if k = u.toNat then value else v.getLsbD k := by
  cases value with
  | false => exact getLsbD_res8 u v k hk
  | true => exact getLsbD_set8 u v k

theorem exec_writeBitR8 (s : State) (u : BitVec 3) (r : R8) (value : Bool) :
    exec (if value then .setR8 u r else .resR8 u r) s =
      .next (setR8 s r (writeBit value u (getR8 s r))) := by
  cases value <;> rfl

theorem exec_writeBitAtHL (s : State) (u : BitVec 3) (value : Bool) :
    exec (if value then .setAtHL u else .resAtHL u) s =
      .next (modifyAtHL s fun v => (writeBit value u v, s.f)) := by
  cases value <;> rfl

/-- Settles O37: one bit of a register, or of the byte at `HL`, is written. -/
theorem resSetResult : Obligations.ResSetResult := by
  intro s u r value
  refine ⟨⟨_, exec_writeBitR8 s u r value, fun k hk => ?_, setR8_f .., onlyR8_setR8 ..⟩,
    ⟨_, exec_writeBitAtHL s u value, writeBit value u (peek s (getHL s)),
      getLsbD_writeBit value u _, rfl, modifiesAtHL_modifyAtHL s _⟩⟩
  rw [getR8_setR8, if_pos rfl, getLsbD_writeBit value u _ k hk]

/-! ### `SWAP` -/

theorem flagsAre_swap8 (v : Byte) :
    FlagsAre (swap8 v).2 (v = 0) False False False := by
  obtain ⟨-, zero, subtract, half, carry⟩ := swap8_spec v
  exact ⟨zero, iff_false_intro (Bool.eq_false_iff.mp subtract),
    iff_false_intro (Bool.eq_false_iff.mp half), iff_false_intro (Bool.eq_false_iff.mp carry)⟩

/-- The result of `SWAP` is zero exactly when the value is. -/
theorem swap8_eq_zero_iff (v : Byte) : (swap8 v).1 = 0 ↔ v = 0 := by
  obtain ⟨result, -⟩ := swap8_spec v
  bv_omega

/-- Settles O38: the nibbles of a register, or of the byte at `HL`, are exchanged. -/
theorem swapResult : Obligations.SwapResult := by
  intro s r
  refine ⟨⟨_, rfl, ?_, ?_, onlyR8_modifyR8 s r _⟩,
    ⟨_, rfl, _, (swap8_spec _).1, ?_, modifiesAtHL_modifyAtHL s _⟩⟩
  · rw [getR8_modifyR8]
    exact (swap8_spec _).1
  · rw [modifyR8_f]
    exact flagsAre_swap8 _
  · rw [swap8_eq_zero_iff]
    exact flagsAre_swap8 _

/-! ### One register operation, several times -/

/-- One round of a register operation, on the register and the carry: `g` is the operation for each
carry before it. -/
def oneRound (g : Bool → Byte → Byte × Flags) (p : Byte × Bool) : Byte × Bool :=
  ((g p.2 p.1).1, (g p.2 p.1).2.c)

/-- Repeating an instruction repeats its round on the register and the carry, and nothing but the
register and the flags changes. -/
theorem repeated_spec {i : Instr} {r : R8} {g : Bool → Byte → Byte × Flags}
    (h : ∀ s, exec i s = .next (modifyR8 s r (g s.f.c))) (n : Nat) (s : State) :
    ∃ t, repeated i n s = .next t ∧ (getR8 t r, t.f.c) = (oneRound g)^[n] (getR8 s r, s.f.c) ∧
      OnlyR8 [r] [] s t := by
  induction n generalizing s with
  | zero => exact ⟨s, rfl, rfl, OnlyR8.refl [r] s⟩
  | succ n ih =>
    obtain ⟨t, hrun, hround, honly⟩ := ih (modifyR8 s r (g s.f.c))
    refine ⟨t, by rw [repeated, h]; exact hrun, ?_, (onlyR8_modifyR8 s r _).trans honly⟩
    rw [hround, getR8_modifyR8, modifyR8_f, Function.iterate_succ_apply]
    rfl

/-- Repeated until its round is the identity, an instruction restores the register and the carry. -/
theorem repeated_restores {i : Instr} {r : R8} {g : Bool → Byte → Byte × Flags} {n : Nat}
    (h : ∀ s, exec i s = .next (modifyR8 s r (g s.f.c)))
    (hround : ∀ v c, (oneRound g)^[n] (v, c) = (v, c)) (s : State) :
    ∃ t, repeated i n s = .next t ∧ getR8 t r = getR8 s r ∧ t.f.c = s.f.c ∧
      OnlyR8 [r] [] s t := by
  obtain ⟨t, hrun, hafter, honly⟩ := repeated_spec h n s
  obtain ⟨hreg, hcarry⟩ := Prod.mk.inj (hafter.trans (hround _ _))
  exact ⟨t, hrun, hreg, hcarry, honly⟩

/-- The same for the register alone. -/
theorem repeated_restores_register {i : Instr} {r : R8} {g : Bool → Byte → Byte × Flags} {n : Nat}
    (h : ∀ s, exec i s = .next (modifyR8 s r (g s.f.c)))
    (hround : ∀ v c, ((oneRound g)^[n] (v, c)).1 = v) (s : State) :
    ∃ t, repeated i n s = .next t ∧ getR8 t r = getR8 s r ∧ OnlyR8 [r] [] s t := by
  obtain ⟨t, hrun, hafter, honly⟩ := repeated_spec h n s
  exact ⟨t, hrun, (congrArg Prod.fst hafter).trans (hround _ _), honly⟩

/-- `RL` and `RR` turn the nine bits of the register and the carry. -/
theorem round_rl_nine : ∀ v c, (oneRound fun c v => rotFlags (rotRL v c))^[9] (v, c) = (v, c) := by
  decide

theorem round_rr_nine : ∀ v c, (oneRound fun c v => rotFlags (rotRR v c))^[9] (v, c) = (v, c) := by
  decide

/-- `RLC` and `RRC` turn the eight bits of the register. -/
theorem round_rlc_eight : ∀ v c, ((oneRound fun _ v => rotFlags (rotRLC v))^[8] (v, c)).1 = v := by
  decide

theorem round_rrc_eight : ∀ v c, ((oneRound fun _ v => rotFlags (rotRRC v))^[8] (v, c)).1 = v := by
  decide

theorem round_swap_two : ∀ v c, ((oneRound fun _ v => swap8 v)^[2] (v, c)).1 = v := by decide

/-- Settles O40: as many rounds as bits are turned. -/
theorem rotationsRestore : Obligations.RotationsRestore := by
  intro s r
  refine ⟨?_, ?_, repeated_restores_register (fun _ => rfl) round_swap_two s⟩
  · simp only [List.forall_mem_cons, List.not_mem_nil, false_imp_iff, implies_true, and_true]
    exact ⟨repeated_restores (fun _ => rfl) round_rl_nine s,
      repeated_restores (fun _ => rfl) round_rr_nine s⟩
  · simp only [List.forall_mem_cons, List.not_mem_nil, false_imp_iff, implies_true, and_true]
    exact ⟨repeated_restores_register (fun _ => rfl) round_rlc_eight s,
      repeated_restores_register (fun _ => rfl) round_rrc_eight s⟩

end Sys2Proof.Proofs.BitOperations
end

section
/-! PROOF. `DAA` (spec 47_misc.md rule R364): its result as a number, and that after a sum or a
difference of packed BCD bytes it is the decimal one (95_test_vectors.md law L-5). -/

namespace Sys2Proof.Proofs.DecimalAdjust

open Sys2Proof.Machine Sys2Proof.Claims
open AccumulatorSums

/-- `DAA` puts the adjusted byte into `A`, with its flags. -/
theorem exec_daa (s : State) : exec .daa s = .next (setAFlags s (daa8 s.a s.f)) := rfl

/-- Settles O52: the two parts of the adjustment are 6 or 0, and 0x60 or 0, by the two tests. -/
theorem daaResult : Obligations.DaaResult := by
  intro s a low high
  obtain ⟨result, zero, subtract, half, carry⟩ := daa8_spec s.a s.f.z s.f.n s.f.h s.f.c
  refine ⟨_, exec_daa s, fun k6 k60 hlow hnlow hhigh hnhigh => ?_,
    ⟨zero, by rw [← subtract]; rfl, iff_false_intro (Bool.eq_false_iff.mp half), carry⟩,
    onlyR8_setAFlags s _⟩
  have h6 : (if low then 0x06 else 0) = k6 := by
    split
    · exact (hlow ‹_›).symm
    · exact (hnlow ‹_›).symm
  have h60 : (if high then 0x60 else 0) = k60 := by
    split
    · exact (hhigh ‹_›).symm
    · exact (hnhigh ‹_›).symm
  rw [h6, h60, Nat.sub_add_eq, ← Nat.add_assoc] at result
  exact result

/-! ### Packed BCD -/

theorem toNat_ofNat_bcd {n : Nat} (hn : n < 100) : (BitVec.ofNat 8 (bcd n)).toNat = bcd n := by
  rw [BitVec.toNat_ofNat, bcd]
  omega

/-- The adjustment of a sum of packed BCD bytes, by the sums of their tens and of their ones with
the carry-in: 6 where the ones make a ten, 0x60 where the tens make a hundred. -/
theorem adjusted_sum : ∀ tens < 19, ∀ ones < 20,
    ((16 * tens + ones) % 256 +
        ((if 15 < ones ∨ 9 < (16 * tens + ones) % 256 % 16 then 0x06 else 0) +
          if 255 < 16 * tens + ones ∨ 0x99 < (16 * tens + ones) % 256 then 0x60 else 0)) % 256 =
      bcd ((10 * tens + ones) % 100) ∧
    (255 < 16 * tens + ones ∨ 0x99 < (16 * tens + ones) % 256 ↔ 99 < 10 * tens + ones) := by
  decide

/-- The adjustment of a difference, by the differences of the tens and of the ones, 9 and 10 added
so that they are not negative. -/
theorem adjusted_difference : ∀ tens < 19, ∀ ones < 20,
    ((16 * tens + ones + 358) % 256 + 256 -
        ((if ones < 10 then 0x06 else 0) + if 16 * tens + ones < 154 then 0x60 else 0)) % 256 =
      bcd ((10 * tens + ones) % 100) ∧
    (16 * tens + ones < 154 ↔ 10 * tens + ones < 100) := by
  decide

/-- After the sum of two packed BCD bytes `DAA` leaves the decimal sum and its carry. -/
theorem daa8_add8 {m n : Nat} (hm : m < 100) (hn : n < 100) {a x : Byte} (ha : a.toNat = bcd m)
    (hx : x.toNat = bcd n) (cin : Bool) :
    (daa8 (add8 a x cin).1 (add8 a x cin).2).1.toNat = bcd ((m + n + cin.toNat) % 100) ∧
      ((daa8 (add8 a x cin).1 (add8 a x cin).2).2.c = true ↔ 99 < m + n + cin.toNat) := by
  obtain ⟨sum, -, subtract, half, carry⟩ := add8_spec a x cin
  obtain ⟨result, -, -, -, adjusted⟩ := daa8_spec (add8 a x cin).1 (add8 a x cin).2.z
    (add8 a x cin).2.n (add8 a x cin).2.h (add8 a x cin).2.c
  have hc := Bool.toNat_le cin
  have bytes : bcd m + bcd n + cin.toNat =
      16 * (m / 10 + n / 10) + (m % 10 + n % 10 + cin.toNat) := by rw [bcd, bcd]; omega
  have nibbles : bcd m % 16 + bcd n % 16 + cin.toNat = m % 10 + n % 10 + cin.toNat := by
    rw [bcd, bcd]; omega
  have numbers : m + n + cin.toNat = 10 * (m / 10 + n / 10) + (m % 10 + n % 10 + cin.toNat) := by
    omega
  obtain ⟨decimal, hundred⟩ := adjusted_sum (m / 10 + n / 10) (by omega)
    (m % 10 + n % 10 + cin.toNat) (by omega)
  rw [numbers]
  refine ⟨result.trans (Eq.trans ?_ decimal), adjusted.trans (Iff.trans ?_ hundred)⟩
  · simp only [half, carry, subtract, sum, ha, hx, bytes, nibbles, true_and, Bool.false_eq_true,
      if_false]
  · simp only [carry, subtract, sum, ha, hx, bytes, true_and]

/-- After the difference of two packed BCD bytes `DAA` leaves the decimal difference and its borrow.
-/
theorem daa8_sub8 {m n : Nat} (hm : m < 100) (hn : n < 100) {a x : Byte} (ha : a.toNat = bcd m)
    (hx : x.toNat = bcd n) (cin : Bool) :
    (daa8 (sub8 a x cin).1 (sub8 a x cin).2).1.toNat = bcd ((m + 200 - n - cin.toNat) % 100) ∧
      ((daa8 (sub8 a x cin).1 (sub8 a x cin).2).2.c = true ↔ m < n + cin.toNat) := by
  obtain ⟨difference, -, subtract, half, borrow⟩ := sub8_spec a x cin
  obtain ⟨result, -, -, -, adjusted⟩ := daa8_spec (sub8 a x cin).1 (sub8 a x cin).2.z
    (sub8 a x cin).2.n (sub8 a x cin).2.h (sub8 a x cin).2.c
  have hc := Bool.toNat_le cin
  obtain ⟨tens, htens⟩ : ∃ tens, tens + n / 10 = m / 10 + 9 := ⟨m / 10 + 9 - n / 10, by omega⟩
  obtain ⟨ones, hones⟩ : ∃ ones, ones + n % 10 + cin.toNat = m % 10 + 10 :=
    ⟨m % 10 + 10 - n % 10 - cin.toNat, by omega⟩
  obtain ⟨decimal, hundred⟩ := adjusted_difference tens (by omega) ones (by omega)
  have bytes : bcd m + 512 - bcd n - cin.toNat = 16 * tens + ones + 358 := by
    rw [bcd, bcd]; omega
  have nibbles : bcd m % 16 < bcd n % 16 + cin.toNat ↔ ones < 10 := by rw [bcd, bcd]; omega
  have order : bcd m < bcd n + cin.toNat ↔ 16 * tens + ones < 154 := by rw [bcd, bcd]; omega
  have numbers : (m + 200 - n - cin.toNat) % 100 = (10 * tens + ones) % 100 := by omega
  have numberOrder : m < n + cin.toNat ↔ 10 * tens + ones < 100 := by omega
  rw [numbers, numberOrder]
  refine ⟨result.trans (Eq.trans ?_ decimal), adjusted.trans (Iff.trans ?_ hundred)⟩
  · simp only [half, borrow, subtract, difference, ha, hx, bytes, nibbles, order,
      Bool.true_eq_false, false_and, or_false, if_true]
  · simp only [borrow, subtract, ha, hx, order, Bool.true_eq_false, false_and, or_false]

theorem bcd_eq_zero_iff (n : Nat) : bcd n = 0 ↔ n = 0 := by
  rw [bcd]
  omega

/-- What `DAA` leaves when the adjusted byte is the packed BCD of `k`. -/
theorem completes_daa {t : State} {k : Nat} {negative carry : Prop} (hn : t.f.n = true ↔ negative)
    (result : (daa8 t.a t.f).1.toNat = bcd k) (hc : (daa8 t.a t.f).2.c = true ↔ carry) :
    Completes .daa t fun u =>
      u.a.toNat = bcd k ∧ FlagsAre u.f (k = 0) negative False carry := by
  obtain ⟨-, zero, subtract, half, -⟩ := daa8_spec t.a t.f.z t.f.n t.f.h t.f.c
  refine ⟨_, exec_daa t, result, ?_, ?_, iff_false_intro (Bool.eq_false_iff.mp half), hc⟩
  · rw [← bcd_eq_zero_iff, ← result]
    exact zero.trans (beq_iff_eq.symm.trans (toNat_eq_zero _))
  · rw [← hn, ← subtract]
    rfl

/-- Settles O53: `DAA` adjusts the byte and the flags that the sum or the difference leaves. -/
theorem daaGivesDecimal : Obligations.DaaGivesDecimal := by
  intro s m n withCarry hm hn ha y c
  have hx := toNat_ofNat_bcd hn
  have ha' : s.a.toNat = bcd m := ha ▸ toNat_ofNat_bcd hm
  cases withCarry with
  | false =>
    obtain ⟨sum, sumCarry⟩ := daa8_add8 hm hn ha' hx false
    obtain ⟨difference, borrow⟩ := daa8_sub8 hm hn ha' hx false
    exact ⟨⟨_, exec_addOf s y, completes_daa Bool.false_eq_true.to_iff sum sumCarry⟩,
      ⟨_, exec_subOf s y, completes_daa (iff_true_intro rfl) difference borrow⟩⟩
  | true =>
    obtain ⟨sum, sumCarry⟩ := daa8_add8 hm hn ha' hx s.f.c
    obtain ⟨difference, borrow⟩ := daa8_sub8 hm hn ha' hx s.f.c
    exact ⟨⟨_, exec_adcOf s y, completes_daa Bool.false_eq_true.to_iff sum sumCarry⟩,
      ⟨_, exec_sbcOf s y, completes_daa (iff_true_intro rfl) difference borrow⟩⟩

end Sys2Proof.Proofs.DecimalAdjust
end

section
/-! PROOF. The loads and stores (spec 44_load.md): every addressing mode ends in one read, one
write, or a write of registers. -/

namespace Sys2Proof.Proofs.LoadsAndStores

open Sys2Proof.Machine Sys2Proof.Claims
open WordArithmetic WordAccesses

/-- The address of the high page is a sum (30_encoding.md rule R105). -/
theorem highPage_eq_add (n : Byte) : highPage n = 0xFF00 + n.setWidth 16 := by
  have h := toNat_highPage n
  bv_omega

/-! ### Registers from registers and constants -/

theorem getR8_setR8_same (s : State) (r : R8) (v : Byte) : getR8 (setR8 s r v) r = v := by
  rw [getR8_setR8, if_pos rfl]

theorem getR16_setR16_same (s : State) (p : R16) (w : Word) : getR16 (setR16 s p w) p = w := by
  rw [getR16_setR16, if_pos rfl]

/-- Settles O41: each writes one register, one pair or `SP`. -/
theorem loadRegisterResult : Obligations.LoadRegisterResult := fun s dst _ p _ w =>
  ⟨⟨_, rfl, getR8_setR8_same s dst _, setR8_f .., onlyR8_setR8 ..⟩,
    ⟨_, rfl, getR8_setR8_same s dst _, setR8_f .., onlyR8_setR8 ..⟩,
    ⟨_, rfl, getR16_setR16_same s p w, setR16_f .., onlyR8_setR16 ..⟩,
    ⟨_, rfl, rfl, rfl, onlyStack_sp s w⟩,
    ⟨_, rfl, toNat_wordOf s.h s.l, rfl, onlyStack_sp s (getHL s)⟩⟩

/-! ### Loads from memory -/

/-- A read whose byte goes into a register. -/
theorem loads_setR8 (s : State) (x : Word) (r : R8) :
    getR8 (setR8 (memRead s x).2 r (peek s x)) r = peek s x ∧
      (setR8 (memRead s x).2 r (peek s x)).f = s.f ∧
      OnlyR8 [r] [.read x] s (setR8 (memRead s x).2 r (peek s x)) :=
  ⟨getR8_setR8_same .., setR8_f .., (onlyR8_memRead s x).of_nil.trans (onlyR8_setR8 ..)⟩

theorem loadsA_withRead (s : State) (x : Word) :
    LoadsA x s (withRead s x fun v t => { t with a := v }) := loads_setR8 s x .a

/-- Settles O42: one read at the address of the mode, taken from the state before. -/
theorem loadFromMemoryResult : Obligations.LoadFromMemoryResult := fun s r p n w =>
  ⟨⟨_, rfl, loads_setR8 s (getHL s) r⟩,
    ⟨_, rfl, loadsA_withRead s (getR16 s p)⟩,
    ⟨_, rfl, loadsA_withRead s w⟩,
    ⟨_, rfl, highPage_eq_add n ▸ loadsA_withRead s (highPage n)⟩,
    ⟨_, rfl, highPage_eq_add s.c ▸ loadsA_withRead s (highPage s.c)⟩⟩

/-! ### Stores -/

theorem holds_memWrite (s : State) (x : Word) (v : Byte) : Holds s (memWrite s x v) x v := by
  intro hram
  rw [storedByte_memWrite, if_pos ⟨hram, rfl⟩]

theorem stores_memWrite (s : State) (x : Word) (v : Byte) : Stores x v s (memWrite s x v) :=
  ⟨holds_memWrite s x v, rfl, onlyR8_memWrite s x v⟩

/-- Settles O43: one write at the address of the mode. -/
theorem storeResult : Obligations.StoreResult := fun s r p n w =>
  ⟨⟨_, rfl, stores_memWrite s (getHL s) (getR8 s r)⟩,
    ⟨_, rfl, stores_memWrite s (getHL s) n⟩,
    ⟨_, rfl, stores_memWrite s (getR16 s p) s.a⟩,
    ⟨_, rfl, stores_memWrite s w s.a⟩,
    ⟨_, rfl, highPage_eq_add n ▸ stores_memWrite s (highPage n) s.a⟩,
    ⟨_, rfl, highPage_eq_add s.c ▸ stores_memWrite s (highPage s.c) s.a⟩⟩

/-! ### Loads and stores that step `HL` -/

/-- What writes some registers writes none but those of a longer list. -/
theorem onlyR8_mono {written more : List R8} {xs : List DeviceEvent} {s t : State}
    (hsub : written ⊆ more) (h : OnlyR8 written xs s t) : OnlyR8 more xs s t :=
  ⟨fun r hr => h.1 r fun hw => hr (hsub hw), h.2⟩

/-- A store of `A` at `HL`, then a write of `HL`. -/
theorem stores_setHL (s : State) (w : Word) {k : Nat} (hw : w.toNat = k) :
    let t := setHL (memWrite s (getHL s) s.a) w
    Holds s t (getHL s) s.a ∧ (getHL t).toNat = k ∧ t.f = s.f ∧
      OnlyR8 [.h, .l] [.write (getHL s) s.a] s t := by
  refine ⟨fun hram => ?_, by rw [getHL_setHL, hw], rfl,
    (onlyR8_memWrite s (getHL s) s.a).of_nil.trans (onlyR8_setR16 _ .hl w)⟩
  rw [storedByte_setHL, holds_memWrite s (getHL s) s.a hram]

/-- A load of `A` from `HL`, then a write of `HL`. -/
theorem loads_setHL (s : State) (w : Word) {k : Nat} (hw : w.toNat = k) :
    let t := setHL { (memRead s (getHL s)).2 with a := peek s (getHL s) } w
    t.a = peek s (getHL s) ∧ (getHL t).toNat = k ∧ t.f = s.f ∧
      OnlyR8 [.a, .h, .l] [.read (getHL s)] s t := by
  obtain ⟨-, -, hload⟩ := loads_setR8 s (getHL s) .a
  exact ⟨rfl, by rw [getHL_setHL, hw], rfl,
    (onlyR8_mono (by decide) hload).trans (onlyR8_mono (by decide) (onlyR8_setR16 _ .hl w))⟩

/-- Settles O44: the access uses the old `HL`, and the word next to it is written after. -/
theorem steppingLoadResult : Obligations.SteppingLoadResult := by
  intro s
  simp only [List.mem_cons, Prod.mk.injEq, List.not_mem_nil, or_false]
  constructor
  · rintro i d (⟨rfl, rfl⟩ | ⟨rfl, rfl⟩)
    · exact ⟨_, rfl, stores_setHL s _ (toNat_add_one _)⟩
    · exact ⟨_, rfl, stores_setHL s _ (toNat_sub_one _)⟩
  · rintro i d (⟨rfl, rfl⟩ | ⟨rfl, rfl⟩)
    · exact ⟨_, rfl, loads_setHL s _ (toNat_add_one _)⟩
    · exact ⟨_, rfl, loads_setHL s _ (toNat_sub_one _)⟩

/-- Settles O45: a `Write16` of `SP`. -/
theorem storeSPResult : Obligations.StoreSPResult := fun s w =>
  ⟨_, rfl, loByte s.sp, hiByte s.sp, toNat_loByte s.sp, toNat_hiByte s.sp,
    holds_write16_low s w s.sp, holds_write16_high s w s.sp, rfl, onlyR8_write16 s w s.sp⟩

end Sys2Proof.Proofs.LoadsAndStores
end

section
/-! PROOF. Jumps, calls, returns (spec 45_control.md) and the stack instructions (46_stack.md): a
new `PC`, with a `Push16` or a `Pop16` before it. -/

namespace Sys2Proof.Proofs.ControlTransfers

open Sys2Proof.Machine Sys2Proof.Claims
open WordAccesses LoadsAndStores FlagRegister

/-! ### Jumps -/

/-- The target of a relative jump wraps at both ends of the address space. -/
theorem toNat_relTarget (s : State) (e : Byte) :
    ((relTarget s e).toNat : Int) = (s.pc.toNat + e.toInt) % 65536 := by
  rw [relTarget, toNat_trunc16_int, signed8_eq_toInt]

theorem whenCond_of_holds {s : State} {cc : Cond} (h : condHolds s cc = true)
    (taken : State → State) : whenCond s cc taken = taken s := if_pos h

theorem whenCond_of_not_holds {s : State} {cc : Cond} (h : condHolds s cc = false)
    (taken : State → State) : whenCond s cc taken = s := if_neg (Bool.eq_false_iff.mp h)

theorem whenCond_jumpTo (s : State) (cc : Cond) (x : Word) :
    whenCond s cc (jumpTo · x) = { s with pc := if condHolds s cc then x else s.pc } := by
  cases h : condHolds s cc with
  | false => exact whenCond_of_not_holds h _
  | true => exact whenCond_of_holds h _

/-- Settles O46: each writes `PC` alone. -/
theorem jumpResult : Obligations.JumpResult := by
  intro s cc w e
  refine ⟨rfl, congrArg _ (whenCond_jumpTo s cc w), ⟨_, rfl, toNat_wordOf s.h s.l, rfl⟩,
    ⟨_, rfl, toNat_relTarget s e, rfl⟩,
    ⟨_, congrArg Host.Outcome.next (whenCond_jumpTo s cc (relTarget s e)), fun h => ?_,
      fun h => ?_, rfl⟩⟩
  · rw [h, if_pos rfl]
    exact toNat_relTarget s e
  · rw [h, if_neg Bool.false_ne_true]

/-! ### Calls and returns -/

/-- A change of `PC` after a push is no part of the push. -/
theorem Pushes.jumpTo {high low : Byte} {s t : State} (h : Pushes high low s t) (x : Word) :
    Pushes high low s (jumpTo t x) := by
  obtain ⟨hsp, hhigh, hlow, hregs, hflags, hcontrol, haccessed⟩ := h
  exact ⟨hsp, hhigh, hlow, fun r hr => (getR8_jumpTo t x r).trans (hregs r hr), hflags, hcontrol,
    haccessed.congr rfl rfl rfl⟩

theorem calls_callTo (s : State) (x : Word) : Calls x s (callTo s x) :=
  ⟨rfl, Pushes.jumpTo (pushes_push16 s s.pc) x⟩

theorem zext16_eq_ofNat (v : Byte) : zext16 v = BitVec.ofNat 16 v.toNat := by
  apply BitVec.eq_of_toNat_eq
  rw [zext16, BitVec.toNat_setWidth, BitVec.toNat_ofNat]

/-- Settles O47: one `callTo` of the target, or nothing. -/
theorem callResult : Obligations.CallResult := by
  intro s cc w vec
  refine ⟨⟨_, rfl, calls_callTo s w⟩, ⟨_, rfl, fun h => ?_, fun h => whenCond_of_not_holds h _⟩,
    ⟨_, rfl, zext16_eq_ofNat vec ▸ calls_callTo s (zext16 vec)⟩⟩
  rw [whenCond_of_holds h]
  exact calls_callTo s w

theorem returns_returnFrom (s : State) : Returns s (returnFrom s) :=
  ⟨toNat_pop16 s, add_one_add_one s.sp⟩

/-- Settles O48: one `returnFrom`, or nothing; `RETI` changes the two interrupt bits beside it. -/
theorem returnResult : Obligations.ReturnResult := by
  intro s cc
  obtain ⟨hregs, hflags, hcontrol, haccessed⟩ := onlyStack_returnFrom s
  refine ⟨⟨_, rfl, returns_returnFrom s, onlyStack_returnFrom s⟩,
    ⟨_, rfl, fun h => ?_, fun h => whenCond_of_not_holds h _⟩,
    ⟨_, rfl, returns_returnFrom s, rfl, rfl, rfl, rfl, hflags,
      fun r _ => getR8_returnFromInterrupt s r, haccessed.congr rfl rfl rfl⟩⟩
  rw [whenCond_of_holds h]
  exact ⟨returns_returnFrom s, onlyStack_returnFrom s⟩

/-! ### `PUSH` and `POP` -/

/-- Settles O49: a `Push16` of the pair, or of `AF`. -/
theorem pushResult : Obligations.PushResult := by
  intro s p
  refine ⟨⟨_, rfl, rfl, _, _, ?_, pushes_push16 s (getR16 s p)⟩,
    ⟨_, rfl, rfl, flagsByte s.f, toNat_flagsByte s.f, ?_⟩⟩
  · rw [← toNat_wordOf, wordOf_hiByte_loByte]
  · have h := pushes_push16 s (getAF s)
    rwa [getAF, hiByte_wordOf, loByte_wordOf] at h

/-- A bit of the low byte popped is the same bit of the word at `SP`. -/
theorem getLsbD_loByte_pop16 (s : State) {k : Nat} (hk : k < 8) :
    (loByte (pop16 s).1).getLsbD k = true ↔ wordAtSP s / 2 ^ k % 2 = 1 := by
  rw [loByte, BitVec.getLsbD_extractLsb', Nat.zero_add, decide_eq_true hk, Bool.true_and,
    BitVec.getLsbD, toNat_pop16, Nat.testBit_eq_decide_div_mod_eq, decide_eq_true_iff]

/-- Settles O50: a `Pop16` into the pair, or into `AF`. -/
theorem popResult : Obligations.PopResult := by
  intro s p
  obtain ⟨-, -, hcontrol, haccessed⟩ := onlyStack_pop16 s
  obtain ⟨hhalves, -, -, hset, -⟩ := onlyR8_setR16 (pop16 s).2 p (pop16 s).1
  have hsp : (pop16 s).2.sp = s.sp + 2 := add_one_add_one s.sp
  refine ⟨⟨_, rfl, ?_, (setR16_sp ..).trans hsp, setR16_pc .., setR16_f ..,
      fun r hr => (hhalves r hr).trans (getR8_pop16 s r), hset,
      haccessed.congr (setR16_mem ..) (setR16_devices ..) (setR16_params ..)⟩,
    ⟨_, rfl, ?_, hsp, rfl, ?_, fun r hr => ?_, hcontrol, haccessed.congr rfl rfl rfl⟩⟩
  · rw [getR16_setR16_same, toNat_pop16]
  · rw [setAF_a, toNat_hiByte, toNat_pop16]
  · exact ⟨getLsbD_loByte_pop16 s (k := 7) (by decide), getLsbD_loByte_pop16 s (k := 6) (by decide),
      getLsbD_loByte_pop16 s (k := 5) (by decide), getLsbD_loByte_pop16 s (k := 4) (by decide)⟩
  · cases r with
    | a => exact absurd (List.mem_singleton_self _) hr
    | _ => rfl

end Sys2Proof.Proofs.ControlTransfers
end

section
/-! PROOF. What every instruction keeps: `PC`, unless it is a control transfer (spec 10_state.md
rule R38), the control state, unless it is one of five, and every byte that the table of
20_memory.md rule R75 does not list for it; and the figures of that table (70_reset_and_hazards.md
rule R471). -/

namespace Sys2Proof.Proofs.InstructionFrames

open Sys2Proof.Machine Sys2Proof.Claims
open WordArithmetic WordAccesses LoadsAndStores ControlTransfers

/-- The instructions that change `IME`, `ei_pending`, `mode` or `halt_bug`. -/
def changesControl : Instr → Bool
  | .di | .ei | .reti | .halt | .stop _ => true
  | _ => false

/-- What an instruction keeps by what it is. -/
def InstrFrame (i : Instr) (s t : State) : Prop :=
  (changesControl i = false → KeepsControl s t) ∧ (isTransfer i = false → t.pc = s.pc) ∧
    Accessed (accessesOf i s) s t

section
variable {i : Instr} {s t : State} {xs : List DeviceEvent}

theorem InstrFrame.of_onlyR8 {written : List R8} (h : OnlyR8 written (accessesOf i s) s t) :
    InstrFrame i s t := by
  obtain ⟨-, -, hpc, hcontrol, haccessed⟩ := h
  exact ⟨fun _ => hcontrol, fun _ => hpc, haccessed⟩

theorem InstrFrame.of_onlyStack (h : OnlyStack (accessesOf i s) s t)
    (hpc : isTransfer i = false → t.pc = s.pc) : InstrFrame i s t := by
  obtain ⟨-, -, hcontrol, haccessed⟩ := h
  exact ⟨fun _ => hcontrol, hpc, haccessed⟩

/-! ### Transfers -/

theorem onlyStack_jumpTo (h : OnlyStack xs s t) (x : Word) : OnlyStack xs s (jumpTo t x) := by
  obtain ⟨hregs, hflags, hcontrol, haccessed⟩ := h
  exact ⟨fun r hr => (getR8_jumpTo t x r).trans (hregs r hr), hflags, hcontrol,
    haccessed.congr rfl rfl rfl⟩

theorem OnlyStack.refl (s : State) : OnlyStack [] s s :=
  ⟨fun _ _ => rfl, rfl, ⟨rfl, rfl, rfl, rfl⟩, Accessed.refl s⟩

theorem onlyStack_callTo (s : State) (x : Word) : OnlyStack (pushWrites s s.pc) s (callTo s x) :=
  onlyStack_jumpTo (onlyStack_push16 s s.pc) x

/-- A conditional form makes its accesses only when the condition holds. -/
theorem onlyStack_whenCond {taken : State → State} (cc : Cond) (h : OnlyStack xs s (taken s)) :
    OnlyStack (if condHolds s cc then xs else []) s (whenCond s cc taken) := by
  cases hc : condHolds s cc with
  | false => rw [if_neg Bool.false_ne_true, whenCond_of_not_holds hc]; exact OnlyStack.refl s
  | true => rw [if_pos rfl, whenCond_of_holds hc]; exact h

theorem onlyStack_whenCond_jumpTo (s : State) (cc : Cond) (x : Word) :
    OnlyStack [] s (whenCond s cc (jumpTo · x)) :=
  whenCond_jumpTo s cc x ▸ onlyStack_jumpTo (OnlyStack.refl s) _

end

/-! ### Every instruction -/

/-- By the shared operation that each instruction is. -/
theorem exec_frame (i : Instr) (s t : State) (h : exec i s = .next t) : InstrFrame i s t := by
  cases i with
  | adcAR8 | adcAN8 | addAR8 | addAN8 | andAR8 | andAN8 | orAR8 | orAN8 | sbcAR8 | sbcAN8 | subAR8
  | subAN8 | xorAR8 | xorAN8 | rla | rlca | rra | rrca | daa =>
    cases h; exact .of_onlyR8 (onlyR8_setAFlags s _)
  | cpl => cases h; exact .of_onlyR8 (onlyR8_setAFlags s (~~~s.a, cplFlags s.f))
  | adcAAtHL | addAAtHL | andAAtHL | orAAtHL | sbcAAtHL | subAAtHL | xorAAtHL =>
    cases h; exact .of_onlyR8 (onlyR8_withRead s _ _ (onlyR8_setAFlags _ _))
  | cpAR8 | cpAN8 | bitR8 | ccf | scf => cases h; exact .of_onlyR8 (onlyR8_flags s _)
  | cpAAtHL | bitAtHL => cases h; exact .of_onlyR8 (onlyR8_withRead s _ _ (onlyR8_flags _ _))
  | incR8 | decR8 | swapR8 | rlR8 | rlcR8 | rrR8 | rrcR8 | slaR8 | sraR8 | srlR8 =>
    cases h; exact .of_onlyR8 (onlyR8_modifyR8 s _ _)
  | incAtHL | decAtHL | resAtHL | setAtHL | swapAtHL | rlAtHL | rlcAtHL | rrAtHL | rrcAtHL
  | slaAtHL | sraAtHL | srlAtHL => cases h; exact .of_onlyR8 (onlyR8_modifyAtHL s _)
  | addHLR16 | addHLSP | ldHLSPE8 => cases h; exact .of_onlyR8 (onlyR8_setHLFlags s _)
  | incR16 | decR16 | ldR16N16 => cases h; exact .of_onlyR8 (onlyR8_setR16 s _ _)
  | resR8 | setR8 | ldR8R8 | ldR8N8 => cases h; exact .of_onlyR8 (onlyR8_setR8 s _ _)
  | ldR8AtHL r => cases h; exact .of_onlyR8 (onlyR8_withRead s _ _ (onlyR8_setR8 _ r _))
  | ldAAtR16 | ldAAtN16 | ldAHighN8 | ldAHighC =>
    cases h; exact .of_onlyR8 (onlyR8_withRead s _ _ (onlyR8_setR8 _ .a _))
  | ldAtHLR8 | ldAtHLN8 | ldAtR16A | ldAtN16A | ldHighN8A | ldHighCA =>
    cases h; exact .of_onlyR8 (onlyR8_memWrite s _ _)
  | ldAtHLIncA | ldAtHLDecA =>
    cases h
    obtain ⟨-, -, -, honly⟩ := stores_setHL s _ rfl
    exact .of_onlyR8 honly
  | ldAAtHLInc | ldAAtHLDec =>
    cases h
    obtain ⟨-, -, -, honly⟩ := loads_setHL s _ rfl
    exact .of_onlyR8 honly
  | ldAtN16SP n => cases h; exact .of_onlyR8 (onlyR8_write16 s n s.sp)
  | incSP | decSP | ldSPN16 | ldSPHL => cases h; exact .of_onlyStack (onlyStack_sp s _) fun _ => rfl
  | addSPE8 | nop =>
    cases h; exact ⟨fun _ => ⟨rfl, rfl, rfl, rfl⟩, fun _ => rfl, accessed_nil rfl rfl rfl⟩
  | pushAF | pushR16 => cases h; exact .of_onlyStack (onlyStack_push16 s _) fun _ => rfl
  | popAF =>
    obtain ⟨-, -, hcontrol, haccessed⟩ := onlyStack_pop16 s
    cases h
    exact ⟨fun _ => hcontrol, fun _ => rfl, haccessed.congr rfl rfl rfl⟩
  | popR16 p =>
    obtain ⟨-, -, -, haccessed⟩ := onlyStack_pop16 s
    obtain ⟨-, -, hpc, hcontrol, hset⟩ := onlyR8_setR16 (pop16 s).2 p (pop16 s).1
    cases h
    exact ⟨fun _ => hcontrol, fun _ => hpc, haccessed.trans hset⟩
  | jpN16 | jpHL | jrE8 =>
    cases h; exact .of_onlyStack (onlyStack_jumpTo (OnlyStack.refl s) _) nofun
  | jpCcN16 | jrCcE8 =>
    cases h; exact .of_onlyStack (onlyStack_whenCond_jumpTo s _ _) nofun
  | callN16 | rstVec => cases h; exact .of_onlyStack (onlyStack_callTo s _) nofun
  | callCcN16 =>
    cases h; exact .of_onlyStack (onlyStack_whenCond _ (onlyStack_callTo s _)) nofun
  | ret => cases h; exact .of_onlyStack (onlyStack_returnFrom s) nofun
  | retCc =>
    cases h; exact .of_onlyStack (onlyStack_whenCond _ (onlyStack_returnFrom s)) nofun
  | reti =>
    obtain ⟨-, -, -, haccessed⟩ := onlyStack_returnFrom s
    cases h; exact ⟨nofun, nofun, haccessed.congr rfl rfl rfl⟩
  | di | ei | stop => cases h; exact ⟨nofun, fun _ => rfl, accessed_nil rfl rfl rfl⟩
  | halt =>
    obtain ⟨-, hnext⟩ | ⟨-, -, hfault⟩ | ⟨-, -, hnext⟩ := haltUnder_cases s.params.haltBugPolicy s
    · cases hnext.symm.trans h
      exact ⟨nofun, fun _ => rfl, accessed_nil rfl rfl rfl⟩
    · cases hfault.symm.trans h
    · cases hnext.symm.trans h
      exact ⟨nofun, fun _ => rfl, accessed_nil rfl rfl rfl⟩
  | illegalD3 | illegalDB | illegalDD | illegalE3 | illegalE4 | illegalEB | illegalEC | illegalED
  | illegalF4 | illegalFC | illegalFD => cases h

/-- Settles O58: read off the frame. -/
theorem pcAdvances : Obligations.PcAdvances := by
  intro i s t h
  obtain ⟨-, hpc, -⟩ := exec_frame i s t h
  exact hpc

/-! ### The figures -/

/-- The figures of one state are all the first of their pair or all the second. -/
theorem figureIn_cases (i : Instr) (s : State) :
    (∀ figures, figureIn i s figures = figures.1) ∨
      ∀ figures, figureIn i s figures = figures.2 := by
  unfold figureIn
  split
  next cc _ =>
    cases condHolds s cc with
    | false => exact .inr fun _ => rfl
    | true => exact .inl fun _ => rfl
  next => exact .inl fun _ => rfl

/-- A conditional form has its accesses when its condition holds, and none when it does not. -/
theorem length_accessesOf (i : Instr) (s : State) :
    (accessesOf i s).length = figureIn i s (dataAccesses i) := by
  cases i with
  | callCcN16 | retCc | jpCcN16 | jrCcE8 =>
    simp only [accessesOf, figureIn, condOf, dataAccesses]
    split <;> rfl
  | _ => rfl

/-- The figures of the opcode table, entry by entry: with the condition met and not met, the fetches
and the data accesses fit into the cycles. -/
theorem accesses_le_instrCycles {i : Instr} {taken notTaken : Nat}
    (h : instrCycles i = some (taken, notTaken)) :
    instrBytes i + (dataAccesses i).1 ≤ taken ∧ instrBytes i + (dataAccesses i).2 ≤ notTaken ∧
      notTaken ≤ taken := by
  cases i with
  | halt | stop | illegalD3 | illegalDB | illegalDD | illegalE3 | illegalE4 | illegalEB | illegalEC
  | illegalED | illegalF4 | illegalFC | illegalFD => cases h
  | _ => cases h; simp [instrBytes, dataAccesses]

/-- Settles O60: the accesses are those of the frame, their number is the figure of the state, and
both figures of each entry fit into its cycles. -/
theorem accessesWithinCycles : Obligations.AccessesWithinCycles := by
  refine ⟨fun i s t h => ?_, length_accessesOf, fun i s c h => ?_⟩
  · obtain ⟨-, -, haccessed⟩ := exec_frame i s t h
    exact haccessed
  · obtain ⟨⟨taken, notTaken⟩, hcycles, rfl⟩ := Option.map_eq_some_iff.mp h
    obtain ⟨hmet, hnot, hle⟩ := accesses_le_instrCycles hcycles
    obtain hfirst | hsecond := figureIn_cases i s
    · rw [hfirst, hfirst]
      exact ⟨hmet, taken, notTaken, hcycles, hle, .inl rfl⟩
    · rw [hsecond, hsecond]
      exact ⟨hnot, taken, notTaken, hcycles, hle, .inr rfl⟩

end Sys2Proof.Proofs.InstructionFrames
end

section
/-! PROOF. What a step does to the control state (spec 10_state.md rules R40 to R42,
60_exceptions.md rule R420), the invariant of the machine, and `HALT` with its bug (47_misc.md rule
R376, 70_reset_and_hazards.md rule R461). -/

namespace Sys2Proof.Proofs.ControlState

open Sys2Proof.Machine Sys2Proof.Claims
open InstructionFrames LoadsAndStores ControlTransfers

/-! ### The control state after an instruction -/

/-- What an instruction does to `IME`, `ei_pending`, `mode` and `halt_bug`: nothing, but for five
instructions. -/
inductive ControlEffect (i : Instr) (s t : State) : Prop where
  | kept (hi : changesControl i = false) (h : KeepsControl s t)
  | di (hi : i = .di) (h : t = { s with ime := false, eiPending := false })
  | ei (hi : i = .ei) (h : t = { s with eiPending := true })
  | reti (hi : i = .reti) (h : t = returnFromInterrupt s)
  | stop (pad : Byte) (hi : i = .stop pad) (h : t = { s with mode := .stopped })
  | halt (hi : i = .halt) (h : t = { s with mode := .halted })
  | haltBug (hi : i = .halt) (hime : s.ime = false) (hpending : pending s ≠ 0)
      (hpolicy : s.params.haltBugPolicy = .emulate) (h : t = { s with haltBug := true })

theorem exec_controlEffect (i : Instr) (s t : State) (h : exec i s = .next t) :
    ControlEffect i s t := by
  cases hi : changesControl i with
  | false => exact .kept hi ((exec_frame i s t h).1 hi)
  | true =>
    cases i with
    | di => cases h; exact .di rfl rfl
    | ei => cases h; exact .ei rfl rfl
    | reti => cases h; exact .reti rfl rfl
    | stop pad => cases h; exact .stop pad rfl rfl
    | halt =>
      obtain ⟨-, hnext⟩ | ⟨-, -, hfault⟩ | ⟨⟨hime, hpending⟩, hpolicy, hnext⟩ :=
        haltUnder_cases s.params.haltBugPolicy s
      · cases hnext.symm.trans h; exact .halt rfl rfl
      · cases hfault.symm.trans h
      · cases hnext.symm.trans h; exact .haltBug rfl hime hpending hpolicy rfl
    | _ => cases hi

/-- Only `HALT` in the bug condition sets `halt_bug`. -/
theorem exec_sets_haltBug {i : Instr} {s t : State} (h : exec i s = .next t)
    (hs : s.haltBug = false) (ht : t.haltBug = true) :
    s.ime = false ∧ pending s ≠ 0 ∧ s.params.haltBugPolicy = .emulate ∧
      t = { s with haltBug := true } := by
  have clear (hkept : t.haltBug = s.haltBug) : False := by
    rw [hkept, hs] at ht
    cases ht
  cases exec_controlEffect i s t h with
  | kept _ hkept =>
    obtain ⟨-, -, -, hbug⟩ := hkept
    exact (clear hbug).elim
  | haltBug _ hime hpending hpolicy ht => exact ⟨hime, hpending, hpolicy, ht⟩
  | di _ ht | ei _ ht | stop _ _ ht | halt _ ht => exact (clear (by rw [ht])).elim
  | reti _ ht => exact (clear (by rw [ht]; rfl)).elim

/-! ### The end of a step -/

theorem finishStep_next {enableAfter : Bool} {answer : Answer} {t : State}
    (h : finishStep enableAfter answer = .next t) :
    ∃ v, answer = .next v ∧ t = { v with ime := v.ime || (enableAfter && v.eiPending),
                                         eiPending := v.eiPending && !enableAfter } := by
  cases answer with
  | next v =>
    cases h
    exact ⟨v, rfl, finishEi_spec enableAfter v⟩
  | fault r => cases h
  | refused r => cases h

/-- What a step that executes an instruction does: the state `u` after the fetch, in which the
instruction runs, differs from the state before in `PC`, `mode`, `halt_bug` and what the devices
have seen. -/
theorem execute_next {s t : State}
    (h : finishStep s.eiPending (exec (fetchInstr (wake s)).1 (fetchInstr (wake s)).2) = .next t) :
    ∃ u v, FetchedFrom (wake s) u ∧ exec (fetchInstr (wake s)).1 u = .next v ∧
      t = { v with ime := v.ime || (s.eiPending && v.eiPending),
                   eiPending := v.eiPending && !s.eiPending } := by
  obtain ⟨v, hexec, ht⟩ := finishStep_next h
  exact ⟨_, v, fetchInstr_snd (wake s), hexec, ht⟩

/-- After the step that sets `halt_bug`: the policy is `emulate`, the machine runs with something
pending, and an `EI` that was waiting has set `IME` (90_conflicts.md C11). -/
theorem execute_sets_haltBug {s t : State}
    (h : finishStep s.eiPending (exec (fetchInstr (wake s)).1 (fetchInstr (wake s)).2) = .next t)
    (ht : t.haltBug = true) :
    s.params.haltBugPolicy = .emulate ∧ t.mode = .running ∧ t.ime = s.eiPending ∧
      t.eiPending = false ∧ pending t ≠ 0 ∧ t.sp = s.sp := by
  obtain ⟨u, v, hfetched, hexec, rfl⟩ := execute_next h
  rw [hfetched] at hexec
  obtain ⟨hime, hpending, hpolicy, rfl⟩ := exec_sets_haltBug hexec rfl ht
  refine ⟨hpolicy, rfl, ?_, ?_, hpending, rfl⟩
  · change (s.ime || (s.eiPending && s.eiPending)) = s.eiPending
    rw [show s.ime = false from hime, Bool.false_or, Bool.and_self]
  · exact Bool.and_not_self s.eiPending

/-! ### The canonical form of memory -/

theorem push8_wf (s : State) (v : Byte) (h : Memory.wf s.mem) : Memory.wf (push8 s v).mem :=
  memWrite_wf { s with sp := s.sp - 1 } (s.sp - 1) v h

theorem push16_wf (s : State) (w : Word) (h : Memory.wf s.mem) : Memory.wf (push16 s w).mem :=
  push8_wf (push8 s (hiByte w)) (loByte w) (push8_wf s (hiByte w) h)

theorem callTo_wf (s : State) (x : Word) (h : Memory.wf s.mem) : Memory.wf (callTo s x).mem :=
  push16_wf s s.pc h

theorem write16_wf (s : State) (x w : Word) (h : Memory.wf s.mem) :
    Memory.wf (write16 s x w).mem :=
  memWrite_wf (memWrite s x (loByte w)) (x + 1) (hiByte w) (memWrite_wf s x (loByte w) h)

theorem modifyAtHL_wf (s : State) (g : Byte → Byte × Flags) (h : Memory.wf s.mem) :
    Memory.wf (modifyAtHL s g).mem := memWrite_wf _ _ _ h

theorem modifyR8_mem (s : State) (r : R8) (g : Byte → Byte × Flags) :
    (modifyR8 s r g).mem = s.mem := by rw [modifyR8_spec, setR8_mem]

theorem haltUnder_mem (policy : HaltBugPolicy) (s t : State) (h : haltUnder policy s = .next t) :
    t.mem = s.mem := by
  obtain ⟨-, hnext⟩ | ⟨-, -, hfault⟩ | ⟨-, -, hnext⟩ := haltUnder_cases policy s
  · cases hnext.symm.trans h; rfl
  · cases hfault.symm.trans h
  · cases hnext.symm.trans h; rfl

/-- Every instruction keeps the canonical form: what it stores, it stores by writes. -/
theorem exec_wf (i : Instr) (s t : State) (h : exec i s = .next t) (wf : Memory.wf s.mem) :
    Memory.wf t.mem := by
  cases i with
  | incAtHL | decAtHL | resAtHL | setAtHL | swapAtHL | rlAtHL | rlcAtHL | rrAtHL | rrcAtHL
  | slaAtHL | sraAtHL | srlAtHL => cases h; exact modifyAtHL_wf s _ wf
  | ldAtHLR8 | ldAtHLN8 | ldAtR16A | ldAtN16A | ldHighN8A | ldHighCA | ldAtHLIncA | ldAtHLDecA =>
    cases h; exact memWrite_wf s _ _ wf
  | ldAtN16SP n => cases h; exact write16_wf s n s.sp wf
  | pushAF | pushR16 => cases h; exact push16_wf s _ wf
  | callN16 | rstVec => cases h; exact callTo_wf s _ wf
  | callCcN16 cc =>
    cases h
    unfold whenCond
    split
    · exact callTo_wf s _ wf
    · exact wf
  | jpCcN16 | jrCcE8 | retCc =>
    cases h
    unfold whenCond
    split <;> exact wf
  | incR8 | decR8 | swapR8 | rlR8 | rlcR8 | rrR8 | rrcR8 | slaR8 | sraR8 | srlR8 =>
    cases h; rw [modifyR8_mem]; exact wf
  | resR8 | setR8 | ldR8R8 | ldR8N8 => cases h; rw [setR8_mem]; exact wf
  | ldR8AtHL => cases h; rw [withRead_spec, setR8_mem]; exact wf
  | incR16 | decR16 | ldR16N16 | popR16 => cases h; rw [setR16_mem]; exact wf
  | halt => rw [haltUnder_mem _ _ _ h]; exact wf
  | illegalD3 | illegalDB | illegalDD | illegalE3 | illegalE4 | illegalEB | illegalEC | illegalED
  | illegalF4 | illegalFC | illegalFD => cases h
  | _ => cases h; exact wf

theorem dispatch_wf (src : Source) (s : State) (wf : Memory.wf s.mem) :
    Memory.wf (dispatch src s).mem := by
  have masked : Memory.wf { s with ime := false, eiPending := false }.mem := wf
  rw [dispatch]
  exact callTo_wf _ _ (storeByte_wf _ _ _ masked)

theorem dispatch_haltBug (src : Source) (s : State) : (dispatch src s).haltBug = s.haltBug := rfl

/-! ### The invariant -/

/-- A step that executes an instruction keeps the parameters and the canonical form. -/
theorem execute_keeps {s t : State}
    (h : finishStep s.eiPending (exec (fetchInstr (wake s)).1 (fetchInstr (wake s)).2) = .next t)
    (wf : Memory.wf s.mem) : Memory.wf t.mem ∧ t.params = s.params := by
  obtain ⟨u, v, hfetched, hexec, rfl⟩ := execute_next h
  obtain ⟨-, -, -, -, hparams⟩ := exec_frame _ u v hexec
  have hmem : u.mem = s.mem := by rw [hfetched]; rfl
  have hwake : u.params = s.params := by rw [hfetched]; rfl
  exact ⟨exec_wf _ u v hexec (hmem ▸ wf), hparams.trans hwake⟩

/-- Settles O9: a dispatch leaves `halt_bug` in a machine that it wakes and in which no `EI` waits,
and an instruction leaves it set only where `HALT` has set it. -/
theorem invKept : Obligations.InvKept := by
  rintro s t ⟨wf, hbug⟩ h
  obtain ⟨-, hstep⟩ | ⟨-, src, -, hstep⟩ | ⟨-, -, hstep⟩ := step_cases s
  · cases hstep.symm.trans h
    exact ⟨⟨wf, hbug⟩, rfl⟩
  · cases hstep.symm.trans h
    refine ⟨⟨dispatch_wf src (wake s) wf, fun ht => ?_⟩, rfl⟩
    rw [dispatch_haltBug, wake_haltBug] at ht
    exact ⟨(hbug ht).1, rfl, rfl⟩
  · rw [hstep] at h
    obtain ⟨wf', hparams⟩ := execute_keeps h wf
    refine ⟨⟨wf', fun ht => ?_⟩, hparams⟩
    obtain ⟨hpolicy, hmode, -, hei, -, -⟩ := execute_sets_haltBug h ht
    exact ⟨hparams ▸ hpolicy, hmode, hei⟩

theorem inv_of_initial {s : State} (h : Initial s) : Inv s := by
  obtain ⟨params, u, mem, devices, rfl, wf, -⟩ | ⟨params, mem, devices, rfl, wf, -⟩ := h
  · exact ⟨wf, nofun⟩
  · exact ⟨wf, nofun⟩

/-- Settles O10: `halt_bug` is clear after reset, and the environment changes neither it nor what it
needs. -/
theorem invAtReset : Obligations.InvAtReset := by
  refine ⟨⟨reset_mem_wf, nofun⟩, fun s => inv_of_initial, fun s requests kind hinv => ?_⟩
  obtain ⟨wf, hbug⟩ := hinv
  refine ⟨⟨environmentMove_wf requests s wf, ?_⟩, wf, hbug⟩
  rw [environmentMove_haltBug, environmentMove_params, environmentMove_mode,
    environmentMove_eiPending]
  exact hbug

theorem inv_of_reachable {s : State} (h : Reachable s) : Inv s := by
  obtain ⟨-, -, hmove⟩ := invAtReset
  induction h with
  | init h => exact inv_of_initial h
  | move requests _ ih => exact (hmove _ requests 0 ih).1
  | change kind _ ih => exact (hmove _ 0 kind ih).2
  | step _ hstep ih => exact (invKept _ _ ih hstep).1

/-! ### The HALT bug -/

/-- The step that sets `halt_bug` executes an instruction. -/
theorem step_sets_haltBug {s t : State} (hs : s.haltBug = false) (h : step s = .next t)
    (ht : t.haltBug = true) :
    s.params.haltBugPolicy = .emulate ∧ t.mode = .running ∧ t.ime = s.eiPending ∧
      t.eiPending = false ∧ pending t ≠ 0 := by
  obtain ⟨-, hstep⟩ | ⟨-, src, -, hstep⟩ | ⟨-, -, hstep⟩ := step_cases s
  · cases hstep.symm.trans h
    cases hs.symm.trans ht
  · cases hstep.symm.trans h
    rw [dispatch_haltBug, wake_haltBug, hs] at ht
    cases ht
  · obtain ⟨hpolicy, hmode, hime, hei, hpending, -⟩ := execute_sets_haltBug (hstep.symm.trans h) ht
    exact ⟨hpolicy, hmode, hime, hei, hpending⟩

/-- A step of a machine with `IME = 0` is no dispatch while `halt_bug` is set: an instruction that
leaves the bit set leaves `SP` where it was, and a dispatch pushes. -/
theorem step_ne_dispatch {s : State} (hmode : s.mode = .running) (hime : s.ime = false)
    (hbug : s.haltBug = true) (src : Source) : step s ≠ .next (dispatch src s) := by
  intro h
  obtain ⟨hstay, -⟩ | ⟨-, _, htaken, -⟩ | ⟨-, -, hstep⟩ := step_cases s
  · rw [hmode] at hstay
    obtain hstop | ⟨hhalt, -⟩ := hstay
    · cases hstop
    · cases hhalt
  · rw [interruptTaken, hime] at htaken
    cases htaken
  · obtain ⟨-, -, -, -, -, hsp⟩ :=
      execute_sets_haltBug (t := dispatch src s) (hstep.symm.trans h) hbug
    have hpushed : s.sp - 1 - 1 = s.sp := hsp
    bv_omega

theorem wake_of_running {s : State} (h : s.mode = .running) : wake s = s := by
  rw [wake, ← h]

/-- A machine that is not stopped, with `IME = 1` and something pending, dispatches the first
source. -/
theorem step_dispatches {s : State} (hmode : s.mode ≠ .stopped) (hime : s.ime = true)
    (hpending : pending s ≠ 0) :
    ∃ src, firstSource (pending s) = some src ∧ step s = .next (dispatch src (wake s)) := by
  have hgo : ¬ (s.mode = .stopped ∨ s.mode = .halted ∧ pending s = 0) := by
    rintro (hstop | ⟨-, hnone⟩)
    · exact hmode hstop
    · exact hpending hnone
  obtain ⟨src, hsrc⟩ := Option.isSome_iff_exists.mp
    ((interruptTaken_isSome s).mpr ⟨hime, hpending⟩)
  refine ⟨src, by rwa [interruptTaken, if_pos hime] at hsrc, ?_⟩
  rw [step, plan_go s hgo, hsrc]

/-- Settles O11: the step that sets `halt_bug` leaves `IME` as `ei_pending` was before it. -/
theorem noDispatchWhileHaltBug : Obligations.NoDispatchWhileHaltBug := by
  intro s hreach
  obtain ⟨wf, -⟩ := inv_of_reachable hreach
  refine ⟨wf, fun t hs h ht => ?_⟩
  obtain ⟨-, hmode, hime, -, hpending⟩ := step_sets_haltBug hs h ht
  constructor
  · rintro hei requests kind u ⟨src, hdispatch⟩
    refine step_ne_dispatch ?_ ?_ ?_ src hdispatch
    · exact (environmentMove_mode requests t).trans hmode
    · exact (environmentMove_ime requests t).trans (hime.trans hei)
    · exact (environmentMove_haltBug requests t).trans ht
  · intro hei
    obtain ⟨src, -, hdispatch⟩ := step_dispatches (by rw [hmode]; nofun) (hime.trans hei) hpending
    rw [wake_of_running hmode] at hdispatch
    exact ⟨src, hdispatch, ht⟩

/-- Settles O55: the cases of `HALT` exclude each other, and a step sets `halt_bug` only under the
policy `emulate`. -/
theorem haltResult : Obligations.HaltResult := by
  intro s
  have hcases := haltUnder_cases s.params.haltBugPolicy s
  refine ⟨fun hnone => ?_, fun hime hpending hpolicy => ?_, fun hime hpending hpolicy => ?_,
    fun t hpolicy hs hstep => ?_⟩
  · have hbug : ¬ (s.ime = false ∧ pending s ≠ 0) := by
      rintro ⟨hime, hpending⟩
      obtain h | h := hnone
      · cases hime.symm.trans h
      · exact hpending h
    obtain ⟨-, hnext⟩ | ⟨h, -⟩ | ⟨h, -⟩ := hcases
    · exact hnext
    · exact absurd h hbug
    · exact absurd h hbug
  · obtain ⟨h, -⟩ | ⟨-, h, -⟩ | ⟨-, -, hnext⟩ := hcases
    · exact absurd ⟨hime, hpending⟩ h
    · cases h.symm.trans hpolicy
    · exact hnext
  · obtain ⟨h, -⟩ | ⟨-, -, hfault⟩ | ⟨-, h, -⟩ := hcases
    · exact absurd ⟨hime, hpending⟩ h
    · exact hfault
    · cases h.symm.trans hpolicy
  · refine Bool.eq_false_iff.mpr fun ht => ?_
    obtain ⟨hemulate, -⟩ := step_sets_haltBug hs hstep ht
    cases hemulate.symm.trans hpolicy

end Sys2Proof.Proofs.ControlState
end

section
/-! PROOF. Fetching (spec 30_encoding.md rule R104) against decoding: a step runs the instruction
that the bytes at `PC` decode to (60_exceptions.md rule R420), also where the double fetch reads the
first of them twice (70_reset_and_hazards.md rule R461); and the delay of `EI` around it (rule
R460). -/

namespace Sys2Proof.Proofs.FetchedInstruction

open Sys2Proof.Machine Sys2Proof.Claims
open DecoderEncoder InstructionFrames ControlState

/-! ### The bytes read, one after the other -/

/-- A machine awake reads the same bytes. -/
theorem readAll_wake (xs : List Word) (s : State) :
    readAll xs (wake s) = ((readAll xs s).1, wake (readAll xs s).2) := by
  induction xs generalizing s with
  | nil => rfl
  | cons x rest ih =>
    have hread : memRead (wake s) x = ((memRead s x).1, wake (memRead s x).2) := rfl
    simp only [readAll, hread, ih]

/-- Reads change nothing but what the devices have seen. -/
theorem readAll_snd (xs : List Word) (s : State) :
    (readAll xs s).2 = { s with devices := (readAll xs s).2.devices } := by
  induction xs generalizing s with
  | nil => rfl
  | cons x rest ih => exact ih (memRead s x).2

/-- The state after the bytes at some addresses are fetched, with `PC` at `next`. -/
def afterFetch (xs : List Word) (next : Word) (s : State) : State :=
  { (readAll xs s).2 with haltBug := false, pc := next }

/-- A fetch reads the bytes that its instruction is decoded from, the first at `PC` and the others
from the address that `PC` has after it: format by format, as many as the instruction has. -/
theorem fetchInstr_of_decode {s : State} {second : Word} {i : Instr} {rest : List Byte}
    (hfirst : fetch8 s = ((memRead s s.pc).1, afterFetch [s.pc] second s))
    (h : decode (readAll [s.pc, second, second + 1] s).1 = .ok (i, rest)) :
    fetchInstr s =
      (i, afterFetch ([s.pc, second, second + 1].take (encode i).length)
        (second + BitVec.ofNat 16 ((encode i).length - 1)) s) := by
  obtain ⟨-, hbytes⟩ := decodeThenEncode _ _ _ h
  have hlength : 3 = (encode i).length + rest.length :=
    (congrArg List.length hbytes).trans List.length_append
  have hcount : (encode i).length = 3 - rest.length := by omega
  simp only [readAll, decode] at h
  simp only [fetchInstr, hfirst]
  generalize formatOf (memRead s s.pc).1 = format at h
  cases format with
  | op j =>
    cases h
    have hpc : second + BitVec.ofNat 16 (3 - 2 - 1) = second := BitVec.add_zero second
    rw [hcount, List.length_cons, List.length_singleton, hpc]
    rfl
  | opByte f =>
    cases h
    rw [hcount]
    rfl
  | opWord f =>
    cases h
    have hpc : second + BitVec.ofNat 16 (3 - 0 - 1) = second + 1 + 1 :=
      (BitVec.add_assoc second 1 1).symm
    rw [hcount, List.length_nil, hpc]
    rfl
  | cbOp =>
    cases h
    rw [hcount]
    rfl

/-- The first fetch of a machine awake with no double fetch moves `PC` on. -/
theorem fetch8_wake_of_not_haltBug {s : State} (h : s.haltBug = false) :
    fetch8 (wake s) = ((memRead (wake s) s.pc).1, afterFetch [s.pc] (s.pc + 1) (wake s)) := by
  rw [fetch8_of_not_haltBug (wake s) h, afterFetch, ← h]
  rfl

/-- In a double fetch it leaves `PC` where it is. -/
theorem fetch8_wake_of_haltBug {s : State} (h : s.haltBug = true) :
    fetch8 (wake s) = ((memRead (wake s) s.pc).1, afterFetch [s.pc] s.pc (wake s)) :=
  fetch8_of_haltBug (wake s) h

/-! ### The step -/

theorem finishStep_eq_afterInstr (s : State) (answer : Answer) :
    finishStep s.eiPending answer = afterInstr s answer := by
  cases answer with
  | next t =>
    simp only [finishStep, finishEi, afterInstr, Bool.and_eq_true]
  | fault r => rfl
  | refused r => rfl

/-- A machine that takes no interrupt and does not wait executes. -/
theorem step_executes {s : State} (hstop : s.mode ≠ .stopped)
    (hhalt : s.mode = .halted → pending s ≠ 0) (hime : ¬ (s.ime = true ∧ pending s ≠ 0)) :
    step s = afterInstr s (exec (fetchInstr (wake s)).1 (fetchInstr (wake s)).2) := by
  obtain ⟨hstop' | ⟨hmode, hnone⟩, -⟩ | ⟨-, src, htaken, -⟩ | ⟨-, -, hstep⟩ := step_cases s
  · exact absurd hstop' hstop
  · exact absurd hnone (hhalt hmode)
  · exact absurd ((interruptTaken_isSome s).mp (by rw [htaken]; rfl)) hime
  · rw [hstep, finishStep_eq_afterInstr]

/-- Fetching with no `halt_bug` is reading, awake. -/
theorem afterFetch_wake (xs : List Word) (next : Word) {s : State} (h : s.haltBug = false) :
    afterFetch xs next (wake s) = { (readAll xs s).2 with mode := .running, pc := next } := by
  have hclear : (readAll xs s).2.haltBug = false := by rw [readAll_snd, h]
  rw [afterFetch, readAll_wake, ← hclear]
  rfl

theorem length_encode_pos (i : Instr) : (encode i).length = (encode i).length - 1 + 1 := by
  have h := (instrBytes_bounds i).1
  rw [encode_length]
  omega

/-- The state in which a fetched instruction runs, when no byte is fetched twice. -/
theorem fetchInstr_wake_of_decode {s : State} {i : Instr} {rest : List Byte}
    (hbug : s.haltBug = false) (h : decode (readAll (codeAt s.pc) s).1 = .ok (i, rest)) :
    fetchInstr (wake s) =
      (i, { (readAll ((codeAt s.pc).take (encode i).length) s).2 with
        mode := .running, pc := s.pc + BitVec.ofNat 16 (encode i).length }) := by
  have hnext : s.pc + 1 + 1 = s.pc + 2 := WordAccesses.add_one_add_one s.pc
  have hpc : s.pc + 1 + BitVec.ofNat 16 ((encode i).length - 1) =
      s.pc + BitVec.ofNat 16 (encode i).length := by
    rw [length_encode_pos i, Nat.add_sub_cancel, BitVec.ofNat_add, BitVec.add_assoc,
      BitVec.add_comm 1]
    rfl
  rw [fetchInstr_of_decode (fetch8_wake_of_not_haltBug hbug)
    (by rw [readAll_wake, wake_pc, hnext]; exact h), wake_pc, hnext, hpc,
    afterFetch_wake _ _ hbug]
  rfl

/-- Settles O6: the machine executes, and what it fetches is what it decodes. -/
theorem stepRunsDecoded : Obligations.StepRunsDecoded := by
  intro s i rest hstop hhalt hime hbug h
  rw [step_executes hstop hhalt hime, fetchInstr_wake_of_decode hbug h]

/-- Settles O7: the first byte is fetched with `PC` left where it is, so the second fetch reads it
again. -/
theorem haltBugFetchesTwice : Obligations.HaltBugFetchesTwice := by
  intro s i rest hmode hime hbug h
  have hfirst := fetch8_wake_of_haltBug hbug
  rw [step_executes (by rw [hmode]; nofun) (by rw [hmode]; nofun) hime]
  rw [wake_of_running hmode] at hfirst ⊢
  rw [fetchInstr_of_decode hfirst h]
  rfl

/-! ### `EI` and `RETI` -/

theorem ne_true_elim {b : Bool} (hb : b = false) {p : Prop} (h : b = true) : p :=
  absurd h (Bool.eq_false_iff.mp hb)

/-- With interrupts disabled only `RETI` sets `IME`, and only `EI` makes it pending. -/
theorem exec_enables {i : Instr} {s t : State} (h : exec i s = .next t) (hime : s.ime = false)
    (hei : s.eiPending = false) : (t.ime = true → i = .reti) ∧ (t.eiPending = true → i = .ei) := by
  cases exec_controlEffect i s t h with
  | kept _ hkept =>
    obtain ⟨hime', hei', -, -⟩ := hkept
    rw [hime', hei', hime, hei]
    exact ⟨nofun, nofun⟩
  | di _ ht => rw [ht]; exact ⟨nofun, nofun⟩
  | ei hi ht => rw [ht]; exact ⟨ne_true_elim hime, fun _ => hi⟩
  | reti hi ht => rw [ht]; exact ⟨fun _ => hi, nofun⟩
  | stop _ _ ht | halt _ ht | haltBug _ _ _ _ ht =>
    rw [ht]
    exact ⟨ne_true_elim hime, ne_true_elim hei⟩

/-- Settles O19: a step that executes no instruction enables nothing, and the end of one that does
changes nothing while no `EI` waits. -/
theorem onlyEiAndRetiEnable : Obligations.OnlyEiAndRetiEnable := by
  intro s t hime hei hstep
  obtain ⟨-, h⟩ | ⟨-, src, htaken, -⟩ | ⟨-, -, h⟩ := step_cases s
  · cases h.symm.trans hstep
    exact ⟨ne_true_elim hime, ne_true_elim hei⟩
  · rw [interruptTaken, hime] at htaken
    cases htaken
  · obtain ⟨u, v, hfetched, hexec, ht⟩ := execute_next (h.symm.trans hstep)
    rw [hei, Bool.false_and, Bool.or_false, Bool.not_false, Bool.and_true] at ht
    obtain rfl : t = v := ht
    exact exec_enables hexec (by rw [hfetched]; exact hime) (by rw [hfetched]; exact hei)

/-- Directly after an `EI` every instruction but `DI` leaves interrupts enabled or still to be
enabled. -/
theorem exec_keeps_enabling {i : Instr} {s t : State} (h : exec i s = .next t)
    (hei : s.eiPending = true) :
    (t.ime || t.eiPending) = true ↔ i ≠ .di := by
  cases exec_controlEffect i s t h with
  | kept hi hkept =>
    obtain ⟨-, hei', -, -⟩ := hkept
    rw [hei', hei, Bool.or_true]
    refine ⟨fun _ hdi => ?_, fun _ => rfl⟩
    rw [hdi] at hi
    cases hi
  | di hi ht => rw [ht, hi]; exact ⟨nofun, fun h => absurd rfl h⟩
  | ei hi ht | stop _ hi ht | halt hi ht | haltBug hi _ _ _ ht =>
    rw [ht, hi]
    exact ⟨nofun, fun _ => by simp [hei]⟩
  | reti hi ht => rw [ht, hi]; exact ⟨nofun, fun _ => rfl⟩

/-- Settles O18: no interrupt is taken while `IME` is 0, and the end of the step applies the `EI`
that waited. -/
theorem eiDelay : Obligations.EiDelay := by
  intro s t i rest hmode hime hei hbug hdecode hstep
  rw [step_executes (by rw [hmode]; nofun) (by rw [hmode]; nofun) (by rw [hime]; nofun),
    fetchInstr_wake_of_decode hbug hdecode, ← finishStep_eq_afterInstr] at hstep
  obtain ⟨u, hexec, rfl⟩ := finishStep_next hstep
  rw [hei, Bool.true_and, Bool.not_true, Bool.and_false]
  have hrunning : (readAll ((codeAt s.pc).take (encode i).length) s).2.mode = .running := by
    rw [readAll_snd, hmode]
  refine ⟨rfl, ?_, u, ?_, rfl⟩
  · exact exec_keeps_enabling hexec (by rw [readAll_snd]; exact hei)
  · rw [← hexec, ← hrunning]

end Sys2Proof.Proofs.FetchedInstruction
end

section
/-! PROOF. Interrupts (spec 60_exceptions.md): the pending set (rule R404), the sources and the
environment (rule R403), taking an interrupt (rule R410) and returning from it (rule R412), and
`Halted` while none comes (rules R425 and R431). -/

namespace Sys2Proof.Proofs.Interrupts

open Sys2Proof.Machine Sys2Proof.Claims
open ControlState WordAccesses StoppedMode

/-! ### The pending set, the sources, the environment -/

theorem getLsbD_mask (n : Nat) : (0x1F : Byte).getLsbD n = decide (n < 5) := by
  obtain hn | hn := Nat.lt_or_ge n 8
  · revert n
    decide
  · rw [BitVec.getLsbD_of_ge _ n hn, decide_eq_false (by omega)]

theorem getLsbD_and_mask (x y : Byte) (n : Nat) :
    (x &&& y &&& 0x1F).getLsbD n = true ↔ n < 5 ∧ x.getLsbD n = true ∧ y.getLsbD n = true := by
  rw [BitVec.getLsbD_and, BitVec.getLsbD_and, getLsbD_mask, Bool.and_eq_true, Bool.and_eq_true,
    decide_eq_true_iff, and_comm]

/-- Settles O14: the stored bytes and the bytes read differ in bits 7 to 5 alone. -/
theorem pendingSet : Obligations.PendingSet := fun s n =>
  ⟨getLsbD_and_mask _ _ n, pending_eq_peek s ▸ getLsbD_and_mask _ _ n⟩

theorem sources : ([Source.vblank, .stat, .timer, .serial, .joypad].map fun src =>
      (src.index, src.mask, src.vector)) =
    [(0, 0x01, 0x0040), (1, 0x02, 0x0048), (2, 0x04, 0x0050), (3, 0x08, 0x0058),
     (4, 0x10, 0x0060)] := by decide

/-- Settles O15: the environment move stores one byte, `IF`, with bits 4 to 0 of the requests added.
-/
theorem sourcesAndEnvironment : Obligations.SourcesAndEnvironment := by
  refine ⟨sources, fun requests kind s => ⟨fun hraises k => ?_,
    environmentMove_of_not_raises requests s, fun x hx => ?_, ?_, fun hchanges => ?_,
    deviceMove_of_not_changes kind s, fun hflat => ?_⟩⟩
  · rw [storedByte_environmentMove, if_pos ⟨hraises, rfl⟩, BitVec.getLsbD_or, BitVec.getLsbD_and,
      getLsbD_mask, Bool.and_comm]
    rfl
  · rw [storedByte_environmentMove, if_neg fun h => hx h.2]
  · rw [environmentMove]
    split <;> rfl
  · rw [deviceMove, Platform.note, Platform.sees, if_pos hchanges]
  · obtain ⟨hmove, hchange⟩ := environment_flatRAM requests kind s hflat
    rw [hmove, hchange]

/-! ### Taking an interrupt -/

theorem toNat_vector (src : Source) : src.vector.toNat = 0x40 + 8 * src.index := by
  cases src <;> rfl

/-- Acknowledging a source clears its bit and no other. -/
theorem getLsbD_and_not_mask (v : Byte) (src : Source) {k : Nat} (hk : k < 8) :
    (v &&& ~~~src.mask).getLsbD k = (v.getLsbD k && !decide (k = src.index)) := by
  have hmask : src.mask.getLsbD k = decide (k = src.index) := by
    cases src <;> revert k <;> decide
  rw [BitVec.getLsbD_and, BitVec.getLsbD_not, hmask, decide_eq_true hk, Bool.true_and]

theorem holds_dispatch_high (src : Source) (s : State) :
    Holds s (dispatch src s) (s.sp - 1) (hiByte s.pc) := by
  intro hram
  rw [storedByte_dispatch, if_neg fun h => sub_one_ne s.sp h.2.symm, if_pos ⟨hram, rfl⟩]

theorem holds_dispatch_low (src : Source) (s : State) :
    Holds s (dispatch src s) (s.sp - 2) (loByte s.pc) := by
  intro hram
  rw [storedByte_dispatch, sub_one_sub_one, if_pos ⟨hram, rfl⟩]

/-- Where the two bytes of `PC` are not stored, the dispatch changes the source's bit of `IF` and
nothing else. -/
theorem storedByte_dispatch_of_not_storesAt (src : Source) (s : State) {x : Word}
    (h : ¬ StoresAt (pushWrites s s.pc) s x) :
    storedByte (dispatch src s) x =
      if x = ifAddr then storedByte s ifAddr &&& ~~~src.mask else storedByte s x := by
  rw [storedByte_dispatch, sub_one_sub_one, if_neg, if_neg]
  · rintro ⟨hram, rfl⟩
    exact h ⟨hram, hiByte s.pc, by simp [pushWrites]⟩
  · rintro ⟨hram, rfl⟩
    exact h ⟨hram, loByte s.pc, by simp [pushWrites]⟩

theorem dispatch_devices (src : Source) (s : State) :
    (dispatch src s).devices = devicesAfter s.params.platform s.devices (pushWrites s s.pc) := by
  rw [dispatch_spec, sub_one_sub_one]
  rfl

/-- Settles O12: the step dispatches, from the state awake, the first source of the pending set. -/
theorem dispatchEffect : Obligations.DispatchEffect := by
  refine ⟨rfl, fun s hmode hime hpending => ?_⟩
  obtain ⟨src, hsrc, hstep⟩ := step_dispatches hmode hime hpending
  obtain ⟨hbit, hlower⟩ := firstSource_spec _ src hsrc
  refine ⟨src, dispatch src (wake s), hstep, hbit, hlower, toNat_vector src,
    sub_one_sub_one s.sp, rfl, rfl, rfl, rfl, fun r _ => ?_, rfl, rfl,
    dispatch_devices src (wake s), holds_dispatch_high src (wake s),
    holds_dispatch_low src (wake s), fun x hx k hk => ?_⟩
  · rw [getR8_dispatch, getR8_wake]
  · rw [storedByte_dispatch_of_not_storesAt src (wake s) hx, storedByte_wake, storedByte_wake]
    change _ = ((storedByte s x).getLsbD k && !decide (x = ifAddr ∧ k = src.index))
    by_cases h : x = ifAddr
    · rw [if_pos h, getLsbD_and_not_mask _ src hk, h]
      simp
    · rw [if_neg h]
      simp [h]

/-! ### Returning from an interrupt -/

/-- The state whose `PC` a dispatch pushes: interrupts disabled, the source's bit of `IF` cleared.
-/
def acknowledged (src : Source) (s : State) : State :=
  storeByte { s with ime := false, eiPending := false } ifAddr (storedByte s ifAddr &&& ~~~src.mask)

theorem dispatch_eq_callTo (src : Source) (s : State) :
    dispatch src s = callTo (acknowledged src s) src.vector := rfl

theorem pop16_jumpTo (s : State) (x : Word) :
    pop16 (jumpTo s x) = ((pop16 s).1, jumpTo (pop16 s).2 x) := rfl

/-- On a stack in plain RAM `RETI` takes back what the dispatch has pushed. -/
theorem returnFromInterrupt_dispatch (src : Source) (s : State)
    (hhigh : kindAt s (s.sp - 1) = .ram 0x00) (hlow : kindAt s (s.sp - 2) = .ram 0x00) :
    returnFromInterrupt (dispatch src s) =
      { push16 (acknowledged src s) s.pc with
        sp := s.sp, pc := s.pc, ime := true, eiPending := false } := by
  have hpop : pop16 (push16 (acknowledged src s) s.pc) =
      (s.pc, { push16 (acknowledged src s) s.pc with sp := s.sp }) :=
    pop16_push16 (acknowledged src s) s.pc hhigh hlow
  rw [dispatch_eq_callTo, callTo, show (acknowledged src s).pc = s.pc from rfl,
    returnFromInterrupt_spec, pop16_jumpTo, hpop]
  rfl

/-- The devices see nothing of a push on a stack in RAM. -/
theorem push16_devices_of_ram (s : State) (w : Word) (hhigh : (kindAt s (s.sp - 1)).isRam = true)
    (hlow : (kindAt s (s.sp - 2)).isRam = true) : (push16 s w).devices = s.devices := by
  have unseen {x : Word} (hram : (kindAt s x).isRam = true) (v : Byte) (seen : List DeviceEvent) :
      s.params.platform.note seen (.write x v) = seen := by
    have hkind : (s.params.platform.kindAt x).isRam = true := hram
    rw [Platform.note, Platform.sees, hkind]
    rfl
  rw [push16_devices, sub_one_sub_one, devicesAfter, devicesAfter, devicesAfter, unseen hhigh,
    unseen hlow]

/-- Settles O13: the two stack operations cancel, and `RETI` sets `IME`. -/
theorem retiUndoesDispatch : Obligations.RetiUndoesDispatch := by
  intro src s hhigh hlow
  refine ⟨_, congrArg Host.Outcome.next (returnFromInterrupt_dispatch src s hhigh hlow), rfl, rfl,
    rfl, rfl, rfl, rfl, rfl, fun r _ => ?_, ?_, rfl, fun x hx => ?_⟩
  · cases r <;> rfl
  · exact push16_devices_of_ram (acknowledged src s) s.pc (congrArg CellKind.isRam hhigh)
      (congrArg CellKind.isRam hlow)
  · simp only [List.mem_cons, List.not_mem_nil, or_false, not_or] at hx
    obtain ⟨hne1, hne2, (hneIF : x ≠ ifAddr)⟩ := hx
    have hpush := storedByte_push16 (acknowledged src s) s.pc x
    rw [sub_one_sub_one, if_neg fun h => hne2 h.2, if_neg fun h => hne1 h.2, acknowledged,
      storedByte_storeByte, if_neg hneIF] at hpush
    exact hpush

/-! ### Waiting -/

theorem step_of_waiting {s : State} (hmode : s.mode = .halted) (h : pending s = 0) :
    step s = .next s := by
  rw [step, plan_stay s (.inr ⟨hmode, h⟩)]

/-- With no source enabled nothing is pending. -/
theorem pending_of_none_enabled {s : State} (h : storedByte s ieAddr &&& 0x1F = 0) :
    pending s = 0 := by
  rw [pending, BitVec.and_assoc, BitVec.and_comm (storedByte s ifAddr), ← BitVec.and_assoc, h]
  exact BitVec.zero_and

/-- The environment leaves `IE` as it is. -/
theorem storedByte_environmentMove_ie (requests : Byte) (s : State) :
    storedByte (environmentMove requests s) ieAddr = storedByte s ieAddr := by
  rw [storedByte_environmentMove, if_neg fun h => absurd h.2 (by decide)]

theorem pending_of_haltedForEver {s : State} (h : HaltedForEver s) : pending s = 0 := by
  obtain ⟨-, hnone | ⟨-, hnone⟩⟩ := h
  · exact pending_of_none_enabled hnone
  · exact hnone

theorem step_of_stuck {s : State} (h : Stuck s) : step s = .next s := by
  obtain hstop | hhalt := h
  · exact step_of_stopped s hstop
  · exact step_of_waiting hhalt.1 (pending_of_haltedForEver hhalt)

/-- The platform does not end a stuck state: it enables no source, and raises no request where none
would be seen otherwise. -/
theorem stuck_of_moves {s : State} (requests : Byte) (kind : Nat) (h : Stuck s) :
    Stuck (deviceMove kind (environmentMove requests s)) := by
  obtain hstop | ⟨hmode, hnone | ⟨hraises, hnone⟩⟩ := h
  · exact .inl ((environmentMove_mode requests s).trans hstop)
  · refine .inr ⟨(environmentMove_mode requests s).trans hmode, .inl ?_⟩
    rw [storedByte_deviceMove, storedByte_environmentMove_ie]
    exact hnone
  · rw [environmentMove_of_not_raises requests s hraises]
    exact .inr ⟨hmode, .inr ⟨hraises, hnone⟩⟩

/-- Settles O17: nothing is pending while no source is enabled, and a step of a waiting machine
leaves it as it is. -/
theorem haltedWaits : Obligations.HaltedWaits := by
  refine ⟨fun s hmode => ⟨fun h => steps_of_fixed s (step_of_waiting hmode h),
    fun hnone requests => ?_⟩, fun s requests kind h => ⟨step_of_stuck h, stuck_of_moves _ _ h⟩⟩
  have h : pending (environmentMove requests s) = 0 :=
    pending_of_none_enabled (by rw [storedByte_environmentMove_ie]; exact hnone)
  exact ⟨h, step_of_waiting ((environmentMove_mode requests s).trans hmode) h⟩

end Sys2Proof.Proofs.Interrupts
end

section
/-! PROOF. Memory and its canonical form (spec 20_memory.md, 10_state.md rule R45), the pairs
(rule R35) and the states a run begins in (rule R47). -/

namespace Sys2Proof.Proofs.MemoryAndState

open Sys2Proof.Machine Sys2Proof.Claims
open LoadsAndStores WordAccesses

/-! ### Accesses -/

theorem memRead_of_device (s : State) (x : Word) (h : kindAt s x = .device) :
    memRead s x = (Config.deviceByte s.devices x, { s with devices := .read x :: s.devices }) := by
  have seen : s.params.platform.sees (.read x) = true := congrArg CellKind.isDevice h
  rw [memRead, peek, h, Platform.note, if_pos seen]
  rfl

/-- The devices see a write of every cell but RAM. -/
theorem note_write (s : State) (x : Word) (v : Byte) :
    s.params.platform.note s.devices (.write x v) =
      if (kindAt s x).isRam then s.devices else .write x v :: s.devices := by
  rw [Platform.note, Platform.sees, kindAt]
  cases (s.params.platform.kindAt x).isRam <;> rfl

theorem memWrite_of_ram (s : State) (x : Word) (v : Byte) (h : (kindAt s x).isRam = true) :
    memWrite s x v = storeByte s x v := by
  rw [memWrite, note_write, if_pos h, if_pos h]
  rfl

theorem memWrite_of_not_ram (s : State) (x : Word) (v : Byte) (h : (kindAt s x).isRam = false) :
    memWrite s x v = { s with devices := .write x v :: s.devices } := by
  rw [memWrite, note_write, h]
  rfl

/-- Settles O20: by the kind of the cell, and on flat RAM every cell is plain RAM. -/
theorem memoryAccess : Obligations.MemoryAccess := by
  refine ⟨fun s x v => ⟨memRead_of_device s x, fun h => ?_, fun h => ?_, memWrite_of_not_ram s x v⟩,
    fun s x y v hflat => ⟨?_, ?_, ?_⟩⟩
  · refine memRead_of_not_device s x ?_
    cases hk : kindAt s x with
    | device => exact absurd hk h
    | ram | rom => rfl
  · rw [memWrite_of_ram s x v h]
    exact ⟨rfl, fun y => storedByte_storeByte s x y v⟩
  · rw [memRead_flatRAM s hflat]
  · rw [memWrite_flatRAM s hflat, storeByte_devices]
  · rw [memWrite_flatRAM s hflat, memRead_flatRAM s hflat,
      memRead_flatRAM (storeByte s x v) hflat, storedByte_storeByte]

/-! ### The canonical form -/

theorem memGet_of_mem {m : Memory} (wf : Memory.wf m) {cell : Host.Cell} (h : cell ∈ m) :
    memGet m cell.1 = cell.2 := by
  obtain ⟨hrising, hcells⟩ := wf
  induction m with
  | nil => cases h
  | cons first rest ih =>
    obtain ⟨habove, hrest⟩ := List.pairwise_cons.mp hrising
    rw [memGet]
    obtain rfl | hmem := List.mem_cons.mp h
    · rw [if_pos rfl]
    · rw [if_neg (habove cell hmem).ne]
      exact ih hmem hrest fun c hc => hcells c (List.mem_cons_of_mem _ hc)

/-- A cell that does not hold what an unlisted cell holds is listed. -/
theorem mem_of_memGet {m : Memory} {a : Nat} (h : memGet m a ≠ unlistedByte) :
    (a, memGet m a) ∈ m := by
  induction m with
  | nil => exact absurd rfl h
  | cons first rest ih =>
    rw [memGet] at h ⊢
    split at h
    next heq =>
      rw [if_pos heq, ← heq]
      exact List.mem_cons_self
    next hne =>
      rw [if_neg hne]
      exact List.mem_cons_of_mem _ (ih h)

/-- What is listed is listed in every memory that holds the same. -/
theorem subset_of_memGet_eq {m m' : Memory} (wf : Memory.wf m)
    (h : ∀ x, x < 65536 → memGet m x = memGet m' x) : m ⊆ m' := by
  intro cell hcell
  obtain ⟨haddr, hbyte⟩ := wf.2 cell hcell
  have hget := memGet_of_mem wf hcell
  rw [h cell.1 haddr] at hget
  rw [← Prod.eta cell, ← hget]
  exact mem_of_memGet (hget ▸ hbyte)

/-- Two canonical memories that hold the same list the same cells, in the same order. -/
theorem eq_of_memGet_eq {m m' : Memory} (wf : Memory.wf m) (wf' : Memory.wf m')
    (h : ∀ x, x < 65536 → memGet m x = memGet m' x) : m = m' := by
  have nodup {l : Memory} (hl : Memory.wf l) : l.Nodup :=
    hl.1.imp fun hlt heq => hlt.ne (congrArg Prod.fst heq)
  have hperm : m.Perm m' := (List.perm_ext_iff_of_nodup (nodup wf) (nodup wf')).mpr fun cell =>
    ⟨fun hc => subset_of_memGet_eq wf h hc,
      fun hc => subset_of_memGet_eq wf' (fun x hx => (h x hx).symm) hc⟩
  exact hperm.eq_of_pairwise (fun x y _ _ hxy hyx => absurd hxy hyx.asymm) wf.1 wf'.1

/-- Settles O23: storing at an address what is there leaves the same memory, by the first part. -/
theorem canonicalMemory : Obligations.CanonicalMemory := by
  refine ⟨fun m m' => eq_of_memGet_eq, fun s x wf hkind => ?_⟩
  have hpeek : peek s x = storedByte s x := by
    rw [peek_of_not_device s x (by rw [hkind]; rfl), hkind]
    exact BitVec.or_zero
  have hmem : memSet s.mem x.toNat (storedByte s x) = s.mem :=
    eq_of_memGet_eq (memSet_wf _ _ _ x.isLt wf) wf fun y _ => by
      rw [memGet_memSet]
      split
      next heq => rw [heq, storedByte]
      next => rfl
  rw [memWrite_of_ram s x _ (by rw [hkind]; rfl), hpeek, storeByte, hmem]

/-! ### The pairs -/

/-- Settles O25: the halves of each pair. -/
theorem pairsAreViews : Obligations.PairsAreViews := by
  intro s p w r v
  obtain ⟨hpair, -⟩ := onlyR8_setR16 s p w
  obtain ⟨hreg, -⟩ := onlyR8_setR8 s r v
  refine ⟨by rw [getR16_setR16_same], hpair, ?_, getR8_setR8_same s r v, hreg⟩
  cases p <;> exact toNat_wordOf _ _

/-! ### Reset -/

theorem initial_interrupts {s : State} (h : Initial s) :
    s.ime = false ∧ storedByte s 0xFFFF = 0x00 := by
  obtain ⟨params, u, mem, devices, rfl, -, hie⟩ | ⟨params, mem, devices, rfl, -, hie⟩ := h
  · exact ⟨rfl, hie⟩
  · exact ⟨rfl, hie⟩

theorem initial_reset : Initial State.reset :=
  .inl ⟨resetParams, Unspecified.zero, [], [], rfl, reset_mem_wf, rfl⟩

/-- The pairs at the DMG entry, from their halves. -/
theorem dmgEntry_pairs (params : Params) (mem : Memory) (devices : List DeviceEvent) :
    getAF (State.dmgEntry params mem devices) = 0x01B0 ∧
      getR16 (State.dmgEntry params mem devices) .bc = 0x0013 ∧
      getR16 (State.dmgEntry params mem devices) .de = 0x00D8 ∧
      getHL (State.dmgEntry params mem devices) = 0x014D :=
  ⟨(rfl : wordOf 0x01 (flagsByte ⟨true, false, true, true⟩) = 0x01B0),
    (rfl : wordOf 0x00 0x13 = 0x0013), (rfl : wordOf 0x00 0xD8 = 0x00D8),
    (rfl : wordOf 0x01 0x4D = 0x014D)⟩

/-- Settles O27: field by field, and each initial state is one of the two. -/
theorem resetState : Obligations.ResetState := by
  refine ⟨fun _ _ _ _ => ⟨rfl, rfl, rfl, rfl, rfl, rfl, rfl, rfl, rfl, rfl, rfl⟩,
    fun params mem devices => ?_, fun _ => initial_interrupts, initial_reset,
    ⟨Unspecified.zero, rfl⟩, rfl⟩
  obtain ⟨haf, hbc, hde, hhl⟩ := dmgEntry_pairs params mem devices
  exact ⟨rfl, haf, hbc, hde, hhl, rfl, rfl, rfl, rfl, rfl, rfl, rfl, rfl⟩

/-! ### The control instructions that run as they are -/

/-- Settles O54: each is one record update. -/
theorem controlStateResult : Obligations.ControlStateResult := fun _ _ => ⟨rfl, rfl, rfl, rfl⟩

/-! ### Forms that compute the same -/

theorem setR8_getR8 (s : State) (r : R8) : setR8 s r (getR8 s r) = s := by
  cases r <;> rfl

/-- Settles O59: the address is the same, the register keeps its value, the picture is the same, the
sum is the same. -/
theorem equivalentForms : Obligations.EquivalentForms := by
  intro s n r
  refine ⟨?_, ?_, congrArg Host.Outcome.next (setR8_getR8 s r), fun i j h => ?_,
    _, _, StackPointerSums.exec_addSPE8 s n, StackPointerSums.exec_ldHLSPE8 s n,
    getHL_setHLFlags s _, rfl, rfl⟩
  · rw [← highPage_eq_add]
    rfl
  · rw [← highPage_eq_add]
    rfl
  · simp only [List.mem_cons, Prod.mk.injEq, List.not_mem_nil, or_false] at h
    obtain ⟨rfl, rfl⟩ | ⟨rfl, rfl⟩ | ⟨rfl, rfl⟩ | ⟨rfl, rfl⟩ := h <;> exact ⟨_, _, rfl, rfl, rfl⟩

end Sys2Proof.Proofs.MemoryAndState
end
